-- ==== Sys2Proof/Word.lean ====
section
/-! DEFINITION. The operation word (30_encoding.md R80) and the two names an operand or a line level can have.
The block has no byte order and no other word type (20_memory.md R63). -/

namespace Sys2Proof

/-- One operation is one 64-bit word, taken whole (R80; 20_memory.md R63). -/
abbrev Word := BitVec 64

/-- A duration in µs as the block carries it: unsigned, 32 bits (00_scope.md R10; 10_state.md R39). -/
abbrev Micros := BitVec 32

/-- The polarity of an edge, the operand `pol` of `EDGE` (30_encoding.md R82): 1 = rising, 0 = falling. -/
inductive Polarity where
  | rising
  | falling
deriving DecidableEq, Repr

/-- A line level (10_state.md R23; 40_receive.md R111): 0 = low, 1 = high. -/
inductive Level where
  | low
  | high
deriving DecidableEq, Repr

end Sys2Proof
end

