-- ==== Sys2Proof/Machine/State.lean ====
section
/-! DEFINITION. The machine's state (10_state.md R20: S0 to S21), the record of a step's outputs (R51), the reasons a
step can stop, and the state after reset (70_reset_and_hazards.md R230). Plain data; no memory (20_memory.md R60).
A register the spec numbers by codes is a closed enumeration; its codes stand in Machine/Registers.lean (log 11). A
single bit is a Bool, true = 1. -/

namespace Sys2Proof.Machine

/-- S0 `MODE` (10_state.md R21). -/
inductive Mode where
  | unarmed
  | listening
  | sending
deriving DecidableEq, Repr

/-- S1 `INTSRC` (10_state.md R22). -/
inductive IntSrc where
  | none
  | edgeCapture
  | periodicCompare
deriving DecidableEq, Repr

/-- S3 `RX_STAGE` (10_state.md R24). -/
inductive Stage where
  | idle
  | syncSeen
  | latchSeen
  | inData
deriving DecidableEq, Repr

/-- S4 `RX_VARIANT` and S11 `TX_VARIANT` (00_scope.md R19; 10_state.md R25, R32). -/
inductive Variant where
  | unknown
  | simple
  | advanced
  | bbsb
deriving DecidableEq, Repr

/-- The decoder registers S3 to S10, the source's `DecoderState` (10_state.md R24 to R31). -/
structure Decoder where
  /-- S3 `RX_STAGE`. -/
  stage : Stage
  /-- S4 `RX_VARIANT`. -/
  variant : Variant
  /-- S5 `RX_BITCOUNT`, two's complement (R26, log 10). -/
  bitcount : BitVec 8
  /-- S6 `RX_SENDER`. -/
  sender : BitVec 26
  /-- S7 `RX_RECIPIENT`. -/
  recipient : BitVec 4
  /-- S8 `RX_COMMAND`. -/
  command : BitVec 5
  /-- S9 `RX_GROUP`. -/
  group : Bool
  /-- S10 `RX_PREVBIT`. -/
  prevbit : Bool
deriving DecidableEq, Repr

/-- The transmit job registers S11 to S18, the source's `TransmitJob` (10_state.md R32 to R39). -/
structure Job where
  /-- S11 `TX_VARIANT`. -/
  variant : Variant
  /-- S12 `TX_SENDER`. -/
  sender : BitVec 26
  /-- S13 `TX_RECIPIENT`. -/
  recipient : BitVec 4
  /-- S14 `TX_COMMAND`. -/
  command : BitVec 5
  /-- S15 `TX_GROUP`. -/
  group : Bool
  /-- S16 `TX_POS`. -/
  pos : BitVec 8
  /-- S17 `TX_REPEATS`. -/
  repeats : BitVec 16
  /-- S18 `TX_PULSE`. -/
  pulse : Micros
deriving DecidableEq, Repr

/-- A decoded message (10_state.md R52). -/
inductive Message where
  | simple (sender : BitVec 4) (recipient : BitVec 4) (turnOn : Bool)
  | advanced (sender : BitVec 26) (recipient : BitVec 4) (command : Bool) (group : Bool)
  | bbsb2011 (sender : BitVec 16) (recipient : BitVec 3) (turnOn : Bool) (isGroupCommand : Bool)
deriving DecidableEq, Repr

/-- The outcome label of a step (60_exceptions.md R201). -/
inductive Label where
  | none
  | ignored
  | progress
  | abortWindow
  | abortParity
  | complete
  | completeSilent
deriving DecidableEq, Repr

/-- The output record of one step (10_state.md R51). -/
structure Output where
  outcome : Label := .none
  msg : Option Message := Option.none
  dispatched : Bool := false
  interval : Option Micros := Option.none
  rearm : Bool := false
deriving DecidableEq, Repr

/-- The whole machine: S0 to S21, and two fields of the model's own, the operation stream and the last step's outputs
(10_state.md R20; log 1, log 4). -/
structure State where
  /-- S0 `MODE`. -/
  mode : Mode
  /-- S1 `INTSRC`. -/
  intsrc : IntSrc
  /-- S2 `LINE`. -/
  line : Level
  /-- S3 to S10. -/
  rx : Decoder
  /-- S11 to S18. -/
  tx : Job
  /-- S19 `HSLOT_SIMPLE`. -/
  hslotSimple : Bool
  /-- S20 `HSLOT_ADVANCED`. -/
  hslotAdvanced : Bool
  /-- S21 `HSLOT_BBSB`. -/
  hslotBbsb : Bool
  /-- The operation words that have arrived and are not taken yet, oldest first (00_scope.md R8; 20_memory.md R67). -/
  ops : List Word
  /-- The outputs of the last step (R51). -/
  out : Output
deriving DecidableEq, Repr

/-- Why a run stops although no operation is refused. The block itself has no faults (60_exceptions.md R200). -/
inductive Fault where
  /-- Raised by `step` when the operation stream is empty: the run is over (70_reset_and_hazards.md R249, log 3). Safe. -/
  | streamExhausted
deriving DecidableEq, Repr

/-- Why an operation is refused. -/
inductive Refusal where
  /-- Raised by `exec` for an operation without a meaning in this model. Safe. None is left. -/
  | notModelled (mnemonic : String)
  /-- Raised by `step` for a word whose `op` is 0x0 or 0xA to 0xF (30_encoding.md R88, log 7). Safe. -/
  | reservedOpcode
  /-- Raised by `step` for a word with an assigned `op` and a reserved bit set (30_encoding.md R88, log 7). Safe. -/
  | reservedBits
  /-- Raised by `EDGE` in `LISTENING` in a (`RX_STAGE`, `RX_VARIANT`) pair outside the seven of 10_state.md R24: "A model
  refuses such a state as a launch state" (40_receive.md R126, log 8).
  Safe. -/
  | unreachableDecoderState
  /-- Raised by `TICK` in `SENDING` without a job variant or with `TX_POS` past the schedule's last phase, which no run
  reaches (10_state.md R32, R37; log 9). Safe. -/
  | unreachableJobState
deriving DecidableEq, Repr

/-- The machine right after reset (70_reset_and_hazards.md R230, R231): every register 0, which is `UNARMED`, `NONE`,
Low, decoder idle, no job, no handler. No operation has arrived and no step has been taken (log 2, log 4). -/
def State.reset : State where
  mode := .unarmed
  intsrc := .none
  line := .low
  rx :=
    { stage := .idle, variant := .unknown, bitcount := 0, sender := 0, recipient := 0, command := 0,
      group := false, prevbit := false }
  tx :=
    { variant := .unknown, sender := 0, recipient := 0, command := 0, group := false, pos := 0, repeats := 0,
      pulse := 0 }
  hslotSimple := false
  hslotAdvanced := false
  hslotBbsb := false
  ops := []
  out := {}

/-- The result of an operation. -/
abbrev Result := Host.Outcome State Fault Refusal

end Sys2Proof.Machine
end

