-- ==== Sys2Proof/Machine/Flags.lean ====
section
/-! DEFINITION. What stands where other machines have flags: the outcome label of a step (60_exceptions.md R201). The
block has no condition flags (10_state.md R48); the label is an output, and no register holds it. -/

namespace Sys2Proof.Machine

/-- The spec's code of a label (60_exceptions.md R201). -/
def Label.code : Label → Nat
  | .none => 0
  | .ignored => 1
  | .progress => 2
  | .abortWindow => 3
  | .abortParity => 4
  | .complete => 5
  | .completeSilent => 6

/-- The label marks a framing error (60_exceptions.md R201, codes 3 and 4). -/
def Label.isAbort : Label → Bool
  | .abortWindow => true
  | .abortParity => true
  | _ => false

/-- The step takes no effect beyond its label: every other output is none or 0 (10_state.md R51). -/
def label (c : Label) (s : State) : State := { s with out := { outcome := c } }

end Sys2Proof.Machine
end

