-- ==== Sys2Proof/Config.lean ====
section
/-! DEFINITION. The configuration of the block: what is fixed before reset and what no operation changes
(00_scope.md R9, R11; 70_reset_and_hazards.md R231). The shape of the protocol table stands here; its numbers
stand in Machine/Protocol.lean. -/

namespace Sys2Proof

/-- A closed window of widths in µs; both bounds are inclusive (00_scope.md R15). -/
structure Window where
  lo : Nat
  hi : Nat
deriving DecidableEq, Repr

/-- The protocol table as ONE record of constants, pure data (00_scope.md R11; 10_state.md R40, R41;
20_memory.md R61). The two BBSB2011 recipient tables belong to it (93_implementation_defined.md). -/
structure ProtocolTable where
  /-- `W_PRE_SA`: preamble, Low, variant left open between Simple and Advanced. -/
  wPreSA : Window
  /-- `W_PRE_B`: preamble, Low, variant BBSB2011. -/
  wPreB : Window
  /-- `W_A_LATCH_H`: Advanced latch, High. -/
  wALatchH : Window
  /-- `W_A_LATCH_L`: Advanced latch, Low. -/
  wALatchL : Window
  /-- `W_S_0`: Simple half-symbol of value 0. -/
  wS0 : Window
  /-- `W_S_1`: Simple half-symbol of value 1, even index only. -/
  wS1 : Window
  /-- `W_A_0`: Advanced half-symbol of value 0. -/
  wA0 : Window
  /-- `W_A_1`: Advanced half-symbol of value 1. -/
  wA1 : Window
  /-- `W_B_0`: BBSB2011 bit of value 0. -/
  wB0 : Window
  /-- `W_B_1`: BBSB2011 bit of value 1. -/
  wB1 : Window
  /-- Simple's terminal count, in High half-symbols. -/
  endSimple : Nat
  /-- Advanced's terminal count, in half-symbols. -/
  endAdvanced : Nat
  /-- BBSB2011's terminal count, in bits. -/
  endBbsb : Nat
  /-- `T_S_PRE`: Simple preamble, Low. -/
  tSPre : Nat
  /-- `T_S_SHORT`: Simple High pulse of a same-value pair. -/
  tSShort : Nat
  /-- `T_S_LONG`: Simple High pulse of a differing pair. -/
  tSLong : Nat
  /-- `T_S_PERIOD`: Simple High pulse plus the gap after it. -/
  tSPeriod : Nat
  /-- `T_A_PRE`: Advanced preamble, Low. -/
  tAPre : Nat
  /-- `T_A_LEAD`: Advanced initial toggle, High. -/
  tALead : Nat
  /-- `T_A_LATCH`: Advanced latch, Low. -/
  tALatch : Nat
  /-- `T_A_0`: Advanced half-symbol of value 0. -/
  tA0 : Nat
  /-- `T_A_1`: Advanced half-symbol of value 1. -/
  tA1 : Nat
  /-- `T_A_STOP`: Advanced stop pulse, High. -/
  tAStop : Nat
  /-- `T_B_PRE`: BBSB2011 preamble, Low. -/
  tBPre : Nat
  /-- `T_B_0`: BBSB2011 bit of value 0. -/
  tB0 : Nat
  /-- `T_B_1`: BBSB2011 bit of value 1. -/
  tB1 : Nat
  /-- The receive-side recipient remap of BBSB2011, indexed by the received code (40_receive.md R125). -/
  bbsbRemap : Vector (BitVec 3) 8
  /-- The send-side recipient code of BBSB2011 without a group request, indexed by `rcp` (41_transmit.md R154). -/
  bbsbSend : Vector (BitVec 3) 8
  /-- The send-side recipient code of a BBSB2011 group request (41_transmit.md R154). -/
  bbsbSendGroup : BitVec 3
deriving DecidableEq, Repr

/-- What is open about `P_REPEAT`: any of its 65535 legal values (00_scope.md R9, log 5). No body: no proof can
see which one it is. -/
opaque Config.repeatIndex : Fin 65535

/-- `P_REPEAT`, the number of times a frame is sent in a row: an open parameter with `1 ≤ P_REPEAT ≤ 65535`,
one for all variants (00_scope.md R9, D28). -/
def Config.pRepeat : Nat := Config.repeatIndex.val + 1

end Sys2Proof
end

