-- ==== Sys2Proof/Machine/Protocol.lean ====
section
/-! DEFINITION. The numbers of the protocol table (10_state.md R40, R41; 40_receive.md R125; 41_transmit.md R154). Every
rule of the model reads them here, so that audited values can replace them without touching a rule (00_scope.md R11;
log 6, log 12). -/

namespace Sys2Proof.Machine

/-- The protocol table with the source's values. `W_PRE_B` ends at 9479 (90_conflicts.md C1). -/
def protocol : ProtocolTable where
  wPreSA := ⟨9480, 11500⟩
  wPreB := ⟨8500, 9479⟩
  wALatchH := ⟨200, 350⟩
  wALatchL := ⟨2350, 2750⟩
  wS0 := ⟨280, 430⟩
  wS1 := ⟨975, 1150⟩
  wA0 := ⟨200, 365⟩
  wA1 := ⟨1000, 1360⟩
  wB0 := ⟨280, 340⟩
  wB1 := ⟨850, 950⟩
  endSimple := 25
  endAdvanced := 64
  endBbsb := 25
  tSPre := 10000
  tSShort := 375
  tSLong := 1125
  tSPeriod := 1500
  tAPre := 10000
  tALead := 235
  tALatch := 2650
  tA0 := 275
  tA1 := 1180
  tAStop := 235
  tBPre := 9000
  tB0 := 300
  tB1 := 900
  bbsbRemap := #v[0, 0, 6, 3, 5, 2, 4, 1]
  bbsbSend := #v[1, 7, 5, 3, 6, 4, 2, 0]
  bbsbSendGroup := 1

end Sys2Proof.Machine
end

