-- ==== Sys2Proof/Machine/Operands.lean ====
section
/-! DEFINITION. How operands are read: windows, shift-in primitives, the phase an edge ends, the width classifiers and
the BBSB2011 recipient transforms (00_scope.md R15, R16; 40_receive.md R111, R112, R125; 41_transmit.md R151, R154). -/

namespace Sys2Proof.Machine

/-- `in(w, lo, hi)`: both bounds inclusive, unsigned (00_scope.md R15). -/
def inWindow (w : Micros) (win : Window) : Bool := decide (win.lo ≤ w.toNat) && decide (w.toNat ≤ win.hi)

/-- A single bit in the width of an accumulator. -/
def bitIn (n : Nat) (b : Bool) : BitVec n := (BitVec.ofBool b).setWidth n

/-- `shl_in_N(acc, b) = ((acc << 1) | b) mod 2^N` (00_scope.md R16). -/
def shlIn {n : Nat} (acc : BitVec n) (b : Bool) : BitVec n := (acc <<< 1) ||| bitIn n b

/-- `shr_in_N(acc, b) = (acc >> 1) | (b << (N-1))` (00_scope.md R16). -/
def shrIn {n : Nat} (acc : BitVec n) (b : Bool) : BitVec n := (acc >>> 1) ||| (bitIn n b <<< (n - 1))

/-- The level of the phase that an edge ends (40_receive.md R111): a rising edge ends a Low phase. -/
def phaseLevel : Polarity → Level
  | .rising => .low
  | .falling => .high

/-- The polarity of the edge that ends a phase of a level: the other direction of R111 (30_encoding.md R96). -/
def edgeEnding : Level → Polarity
  | .low => .rising
  | .high => .falling

/-- `simple_val(w, i)`; `none` is `INVALID` (40_receive.md R112). -/
def simpleVal (w : Micros) (i : Int) : Option Bool :=
  if inWindow w protocol.wS0 then some false
  else if i % 2 = 0 ∧ inWindow w protocol.wS1 then some true
  else none

/-- `simple_gap_ok(w)` (40_receive.md R112). -/
def simpleGapOk (w : Micros) : Bool := inWindow w protocol.wS0 || inWindow w protocol.wS1

/-- `adv_val(w)`; `none` is `INVALID` (40_receive.md R112). -/
def advVal (w : Micros) : Option Bool :=
  if inWindow w protocol.wA0 then some false
  else if inWindow w protocol.wA1 then some true
  else none

/-- `bbsb_val(w)`; `none` is `INVALID` (40_receive.md R112). -/
def bbsbVal (w : Micros) : Option Bool :=
  if inWindow w protocol.wB0 then some false
  else if inWindow w protocol.wB1 then some true
  else none

/-- `bbsb_remap(x)`, as the table the source recommends (40_receive.md R125, log 12). -/
def bbsbRemap (x : BitVec 3) : BitVec 3 := protocol.bbsbRemap[x.toNat]'x.isLt

/-- `bbsb_send_code(r, g)` masked to 3 bits (41_transmit.md R154; 90_conflicts.md C4). -/
def bbsbSendCode (r : BitVec 3) (g : Bool) : BitVec 3 :=
  if g then protocol.bbsbSendGroup else protocol.bbsbSend[r.toNat]'r.isLt

/-- Simple's command: 14 = on, 6 = off (41_transmit.md R151; 10_state.md R35). -/
def simpleCommand (on : Bool) : BitVec 5 := if on then 14 else 6

/-- BBSB2011's command: the sync nibble `1010` and the command bit, `0x14 | on` (41_transmit.md R153). -/
def bbsbCommand (on : Bool) : BitVec 5 := 0x14 ||| bitIn 5 on

end Sys2Proof.Machine
end

