-- ==== Sys2Proof/Machine/Registers.lean ====
section
/-! DEFINITION. The register map S0 to S21 (10_state.md R20): each register's name, width and value as an unsigned
number in the spec's codes, and the ports the environment sees (60_exceptions.md R213). No operation reads a register
out (20_memory.md R60); this is how a claim names one. -/

namespace Sys2Proof.Machine

/-- S0 to S21, in the order of 10_state.md R20. -/
inductive Reg where
  | mode
  | intsrc
  | line
  | rxStage
  | rxVariant
  | rxBitcount
  | rxSender
  | rxRecipient
  | rxCommand
  | rxGroup
  | rxPrevbit
  | txVariant
  | txSender
  | txRecipient
  | txCommand
  | txGroup
  | txPos
  | txRepeats
  | txPulse
  | hslotSimple
  | hslotAdvanced
  | hslotBbsb
deriving DecidableEq, Repr

/-- The width column of 10_state.md R20. -/
def Reg.width : Reg → Nat
  | .mode => 2
  | .intsrc => 2
  | .line => 1
  | .rxStage => 2
  | .rxVariant => 2
  | .rxBitcount => 8
  | .rxSender => 26
  | .rxRecipient => 4
  | .rxCommand => 5
  | .rxGroup => 1
  | .rxPrevbit => 1
  | .txVariant => 2
  | .txSender => 26
  | .txRecipient => 4
  | .txCommand => 5
  | .txGroup => 1
  | .txPos => 8
  | .txRepeats => 16
  | .txPulse => 32
  | .hslotSimple => 1
  | .hslotAdvanced => 1
  | .hslotBbsb => 1

/-- 10_state.md R20, R21. -/
def Mode.code : Mode → Nat
  | .unarmed => 0
  | .listening => 1
  | .sending => 2

/-- 10_state.md R20, R22. -/
def IntSrc.code : IntSrc → Nat
  | .none => 0
  | .edgeCapture => 1
  | .periodicCompare => 2

/-- 10_state.md R20, R23. -/
def levelCode : Level → Nat
  | .low => 0
  | .high => 1

/-- 10_state.md R20, R24. -/
def Stage.code : Stage → Nat
  | .idle => 0
  | .syncSeen => 1
  | .latchSeen => 2
  | .inData => 3

/-- 00_scope.md R19. -/
def Variant.code : Variant → Nat
  | .unknown => 0
  | .simple => 1
  | .advanced => 2
  | .bbsb => 3

/-- The value of a register in the spec's codes (10_state.md R20). -/
def State.read (s : State) : Reg → Nat
  | .mode => s.mode.code
  | .intsrc => s.intsrc.code
  | .line => levelCode s.line
  | .rxStage => s.rx.stage.code
  | .rxVariant => s.rx.variant.code
  | .rxBitcount => s.rx.bitcount.toNat
  | .rxSender => s.rx.sender.toNat
  | .rxRecipient => s.rx.recipient.toNat
  | .rxCommand => s.rx.command.toNat
  | .rxGroup => s.rx.group.toNat
  | .rxPrevbit => s.rx.prevbit.toNat
  | .txVariant => s.tx.variant.code
  | .txSender => s.tx.sender.toNat
  | .txRecipient => s.tx.recipient.toNat
  | .txCommand => s.tx.command.toNat
  | .txGroup => s.tx.group.toNat
  | .txPos => s.tx.pos.toNat
  | .txRepeats => s.tx.repeats.toNat
  | .txPulse => s.tx.pulse.toNat
  | .hslotSimple => s.hslotSimple.toNat
  | .hslotAdvanced => s.hslotAdvanced.toNat
  | .hslotBbsb => s.hslotBbsb.toNat

/-- The output ports (60_exceptions.md R213): `LINE` and `INTSRC`, driven from their registers, and the step's record. -/
structure Ports where
  line : Level
  intsrc : IntSrc
  interval : Option Micros
  rearm : Bool
  msg : Option Message
  dispatched : Bool
deriving DecidableEq, Repr

/-- What the environment sees after a step (10_state.md R50, R51; 60_exceptions.md R213). -/
def State.ports (s : State) : Ports where
  line := s.line
  intsrc := s.intsrc
  interval := s.out.interval
  rearm := s.out.rearm
  msg := s.out.msg
  dispatched := s.out.dispatched

end Sys2Proof.Machine
end

