-- ==== Sys2Proof/Machine/Ops.lean ====
section
/-! DEFINITION. The shared operations over the registers and the step's outputs. The block has no memory
(20_memory.md R60) and no exceptions (60_exceptions.md R200); what takes an exception's place is `abort`
(40_receive.md R127). -/

namespace Sys2Proof.Machine

/-- The decoder registers take new values; nothing else changes. -/
def setRx (rx : Decoder) (s : State) : State := { s with rx := rx }

/-- The job registers take new values; nothing else changes. -/
def setTx (tx : Job) (s : State) : State := { s with tx := tx }

/-- The line takes a level; nothing else changes. -/
def setLine (l : Level) (s : State) : State := { s with line := l }

/-- `total_reset()` (40_receive.md R129): the reset values of all decoder registers. -/
def totalReset (s : State) : State :=
  setRx
    { stage := .idle, variant := .unknown, bitcount := 0, sender := 0, recipient := 0, command := 0,
      group := false, prevbit := false } s

/-- `abort(cause)` (40_receive.md R127): total reset, the cause as the outcome, no message. -/
def abort (cause : Label) (s : State) : State := label cause (totalReset s)

/-- The job registers S11 to S18 all 0 (41_transmit.md R160; 42_control.md R190). -/
def clearJob (s : State) : State :=
  setTx
    { variant := .unknown, sender := 0, recipient := 0, command := 0, group := false, pos := 0, repeats := 0,
      pulse := 0 } s

/-- The variant a message belongs to (40_receive.md R130). -/
def Message.variant : Message → Variant
  | .simple _ _ _ => .simple
  | .advanced _ _ _ _ => .advanced
  | .bbsb2011 _ _ _ _ => .bbsb

/-- The handler slot of a variant (10_state.md R42 to R44). -/
def State.slot (s : State) : Variant → Bool
  | .unknown => false
  | .simple => s.hslotSimple
  | .advanced => s.hslotAdvanced
  | .bbsb => s.hslotBbsb

/-- `emit_msg(m)` (40_receive.md R130): the message, and whether its variant's handler is called. What the handler does
is the application's (log 13). -/
def emitMsg (m : Message) (s : State) : State :=
  { s with out := { s.out with msg := some m, dispatched := s.slot m.variant } }

/-- `emit_interval(d)` (41_transmit.md R150): masked to the register's width at write time (00_scope.md R13). -/
def emitInterval (d : Nat) (s : State) : State :=
  { s with
    tx := { s.tx with pulse := BitVec.ofNat 32 d }
    out := { s.out with interval := some (BitVec.ofNat 32 d) } }

/-- The mode switch to reception, `MODE` and `INTSRC` in one step (10_state.md R22; 20_memory.md R68). -/
def toListening (s : State) : State := { s with mode := .listening, intsrc := .edgeCapture }

/-- The mode switch to transmission (10_state.md R22; 20_memory.md R68). -/
def toSending (s : State) : State := { s with mode := .sending, intsrc := .periodicCompare }

end Sys2Proof.Machine
end

