-- ==== Sys2Proof/Machine/Control.lean ====
section
/-! DEFINITION. `INIT`, `REGS`, `REGA` and `REGB` (42_control.md R190 to R193). -/

namespace Sys2Proof.Machine

/-- `INIT` (42_control.md R190): no job, decoder reset, line Low, reception armed; the handler slots stay. -/
def execInit (s : State) : Result :=
  .next (toListening (setLine .low (totalReset (clearJob (label .none s)))))

/-- `REGS present` (42_control.md R191). -/
def execRegs (present : Bool) (s : State) : Result := .next { label .none s with hslotSimple := present }

/-- `REGA present` (42_control.md R192). -/
def execRega (present : Bool) (s : State) : Result := .next { label .none s with hslotAdvanced := present }

/-- `REGB present` (42_control.md R193). -/
def execRegb (present : Bool) (s : State) : Result := .next { label .none s with hslotBbsb := present }

end Sys2Proof.Machine
end

