-- ==== Sys2Proof/Machine/Receive.lean ====
section
/-! DEFINITION. `EDGE`, the receive decoder (40_receive.md R110 to R131): one function per case of (stage, variant).
`RX_BITCOUNT` is read as a signed number (10_state.md R26, log 10); a write of it wraps to 8 bits (00_scope.md R13).
Counts and fields that no run reaches follow the pseudocode literally (log 15). -/

namespace Sys2Proof.Machine

/-- `RX_BITCOUNT` as the signed number it holds (10_state.md R26). -/
def Decoder.count (rx : Decoder) : Int := rx.bitcount.toInt

/-- `idle_step(w, lvl)` at (Idle, Unknown) (40_receive.md R113). -/
def idleStep (w : Micros) (lvl : Level) (s : State) : State :=
  if lvl = .low ∧ inWindow w protocol.wPreSA then
    label .progress (setRx { s.rx with stage := .syncSeen } s)
  else if lvl = .low ∧ inWindow w protocol.wPreB then
    label .progress (setRx { s.rx with stage := .syncSeen, variant := .bbsb } s)
  else label .ignored s

/-- `simple_complete()` (40_receive.md R118): only commands 14 and 6 give a message; then the total reset. -/
def simpleComplete (s : State) : State :=
  let c := s.rx.command.setWidth 4
  if c = 14 ∨ c = 6 then
    totalReset (emitMsg (.simple (s.rx.sender.setWidth 4) s.rx.recipient (decide (c = 14))) (label .complete s))
  else totalReset (label .completeSilent s)

/-- The commit of pair `k = i >> 1` with the value of its even half-symbol (40_receive.md R116). -/
def simpleCommit (i : Int) (rx : Decoder) : Decoder :=
  let k := i / 2
  if k < 4 then { rx with sender := (shrIn (rx.sender.setWidth 4) rx.prevbit).setWidth 26 }
  else if k < 8 then { rx with recipient := shrIn rx.recipient rx.prevbit }
  else { rx with command := (shrIn (rx.command.setWidth 4) rx.prevbit).setWidth 5 }

/-- `simple_half(w)` (40_receive.md R116). -/
def simpleHalf (w : Micros) (s : State) : State :=
  let i := s.rx.count
  match simpleVal w i with
  | none => abort .abortWindow s
  | some v =>
    let rx := if i % 2 = 1 then simpleCommit i s.rx else s.rx
    let s' := setRx { rx with prevbit := v, bitcount := s.rx.bitcount + 1 } s
    if i + 1 = protocol.endSimple then simpleComplete s' else label .progress s'

/-- `simple_step(w, lvl)` at (InData, Simple): a High half-symbol (R116) or a Low gap (40_receive.md R117). -/
def simpleStep (w : Micros) (lvl : Level) (s : State) : State :=
  match lvl with
  | .high => simpleHalf w s
  | .low => if simpleGapOk w then label .progress s else abort .abortWindow s

/-- `sync_step(w, lvl)` at (SyncSeen, Unknown): the Advanced test first (40_receive.md R114). -/
def syncStep (w : Micros) (lvl : Level) (s : State) : State :=
  if lvl = .high ∧ inWindow w protocol.wALatchH then
    label .progress (setRx { s.rx with stage := .latchSeen, variant := .advanced } s)
  else if lvl = .high ∧ (simpleVal w 0).isSome then
    simpleHalf w (setRx { s.rx with stage := .inData, variant := .simple } s)
  else abort .abortWindow s

/-- `latch_step(w, lvl)` at (LatchSeen, Advanced) (40_receive.md R115). -/
def latchStep (w : Micros) (lvl : Level) (s : State) : State :=
  if lvl = .low ∧ inWindow w protocol.wALatchL then
    label .progress (setRx { s.rx with stage := .inData, sender := 0, bitcount := 0 } s)
  else abort .abortWindow s

/-- `adv_commit(i, b)` (40_receive.md R121). -/
def advCommit (i : Int) (b : Bool) (rx : Decoder) : Decoder :=
  if i ≤ 51 then { rx with sender := shlIn rx.sender b }
  else if i = 53 then { rx with group := b }
  else if i = 55 then { rx with command := bitIn 5 b }
  else { rx with recipient := shlIn rx.recipient b }

/-- `adv_complete()` (40_receive.md R122): always a message; then the total reset. -/
def advComplete (s : State) : State :=
  totalReset
    (emitMsg (.advanced s.rx.sender s.rx.recipient (s.rx.command.getLsbD 0) s.rx.group) (label .complete s))

/-- `adv_step(w)` at (InData, Advanced), either level: window, then parity, then commit (40_receive.md R119, R120). -/
def advStep (w : Micros) (s : State) : State :=
  match advVal w with
  | none => abort .abortWindow s
  | some v =>
    let i := s.rx.count
    if i % 2 = 1 ∧ v = s.rx.prevbit then abort .abortParity s
    else
      let rx := if i % 2 = 1 then advCommit i s.rx.prevbit s.rx else s.rx
      let s' := setRx { rx with prevbit := v, bitcount := s.rx.bitcount + 1 } s
      if i + 1 = protocol.endAdvanced then advComplete s' else label .progress s'

/-- Where bit `n` (1-based) of a BBSB2011 frame is stored; bit 25 nowhere (40_receive.md R123). -/
def bbsbStore (n : Int) (v : Bool) (rx : Decoder) : Decoder :=
  if n ≤ 16 then { rx with sender := (shlIn (rx.sender.setWidth 16) v).setWidth 26 }
  else if n ≤ 21 then { rx with command := shlIn rx.command v }
  else if n ≤ 24 then { rx with recipient := (shlIn (rx.recipient.setWidth 3) v).setWidth 4 }
  else rx

/-- `bbsb_complete()` (40_receive.md R124): only commands 0x14 and 0x15 give a message; then the total reset. -/
def bbsbComplete (s : State) : State :=
  let c := s.rx.command
  if c = 0x14 ∨ c = 0x15 then
    let r := bbsbRemap (s.rx.recipient.setWidth 3)
    totalReset
      (emitMsg (.bbsb2011 (s.rx.sender.setWidth 16) r (decide (c = 0x15)) (decide (r = 1))) (label .complete s))
  else totalReset (label .completeSilent s)

/-- `bbsb_step(w)` at (SyncSeen or InData, BBSB2011), either level; `RX_PREVBIT` is not written (40_receive.md R123). -/
def bbsbStep (w : Micros) (s : State) : State :=
  match bbsbVal w with
  | none => abort .abortWindow s
  | some v =>
    let n := s.rx.count + 1
    let s' := setRx { bbsbStore n v s.rx with stage := .inData, bitcount := s.rx.bitcount + 1 } s
    if n = protocol.endBbsb then bbsbComplete s' else label .progress s'

/-- One edge in `LISTENING`: the dispatch on (`RX_STAGE`, `RX_VARIANT`) (40_receive.md R110). A pair outside the seven is
refused (R126). -/
def decodeEdge (w : Micros) (lvl : Level) (s : State) : Result :=
  match s.rx.stage, s.rx.variant with
  | .idle, .unknown => .next (idleStep w lvl s)
  | .syncSeen, .unknown => .next (syncStep w lvl s)
  | .latchSeen, .advanced => .next (latchStep w lvl s)
  | .inData, .simple => .next (simpleStep w lvl s)
  | .inData, .advanced => .next (advStep w s)
  | .syncSeen, .bbsb => .next (bbsbStep w s)
  | .inData, .bbsb => .next (bbsbStep w s)
  | _, _ => .refused .unreachableDecoderState

/-- `EDGE width, pol` (40_receive.md R110): outside `LISTENING` it is taken and ignored (R131). -/
def execEdge (width : Micros) (pol : Polarity) (s : State) : Result :=
  if s.mode = .listening then decodeEdge width (phaseLevel pol) s else .next (label .ignored s)

end Sys2Proof.Machine
end

