-- ==== Sys2Proof/Machine/Transmit.lean ====
section
/-! DEFINITION. `SENDS`, `SENDA`, `SENDB` and `TICK`, the transmit sequencer, and the schedules it plays
(41_transmit.md R150 to R161). -/

namespace Sys2Proof.Machine

/-- One phase of a schedule: a level and its duration in µs (41_transmit.md R155). -/
structure Phase where
  level : Level
  duration : Nat
deriving DecidableEq, Repr

/-- The length N of one repeat's schedule (41_transmit.md R155); no schedule without a variant. -/
def schedLength : Variant → Nat
  | .unknown => 0
  | .simple => 50
  | .advanced => 68
  | .bbsb => 26

/-- `d[k]`, the logical bits of a Simple frame, each field least-significant bit first (41_transmit.md R156). -/
def simpleBit (j : Job) (k : Nat) : Bool :=
  if k < 4 then j.sender.getLsbD k
  else if k < 8 then j.recipient.getLsbD (k - 4)
  else j.command.getLsbD (k - 8)

/-- `h_s`, the High duration of slot `s` (41_transmit.md R156). -/
def simpleHigh (j : Job) (s : Nat) : Nat :=
  if s % 2 = 0 ∧ s < 24 ∧ simpleBit j (s / 2) then protocol.tSLong else protocol.tSShort

/-- Phase `p` of the Simple schedule (41_transmit.md R156): phase 2s+1 is slot s, phase 2s+2 the gap after it. -/
def simplePhase (j : Job) (p : Nat) : Phase :=
  if p = 0 then ⟨.low, protocol.tSPre⟩
  else if p % 2 = 1 then ⟨.high, simpleHigh j (p / 2)⟩
  else ⟨.low, protocol.tSPeriod - simpleHigh j (p / 2 - 1)⟩

/-- `a[k]`, the logical bits of an Advanced frame, most-significant bit first (41_transmit.md R157). -/
def advBit (j : Job) (k : Nat) : Bool :=
  if k < 26 then j.sender.getLsbD (25 - k)
  else if k = 26 then j.group
  else if k = 27 then j.command.getLsbD 0
  else j.recipient.getLsbD (31 - k)

/-- The value of half-symbol `i`: the second half of a pair is the inverse (41_transmit.md R157). -/
def advHalf (j : Job) (i : Nat) : Bool := if i % 2 = 0 then advBit j (i / 2) else !(advBit j (i / 2))

/-- Phase `p` of the Advanced schedule (41_transmit.md R157): phase 3+i is half-symbol i. -/
def advPhase (j : Job) (p : Nat) : Phase :=
  if p = 0 then ⟨.low, protocol.tAPre⟩
  else if p = 1 then ⟨.high, protocol.tALead⟩
  else if p = 2 then ⟨.low, protocol.tALatch⟩
  else if p < 67 then
    ⟨if (p - 3) % 2 = 0 then .high else .low, if advHalf j (p - 3) then protocol.tA1 else protocol.tA0⟩
  else ⟨.high, protocol.tAStop⟩

/-- `t[j]`, the bits of a BBSB2011 frame (41_transmit.md R158). -/
def bbsbBit (j : Job) (k : Nat) : Bool :=
  if k < 16 then j.sender.getLsbD (15 - k)
  else if k < 21 then j.command.getLsbD (20 - k)
  else if k < 24 then j.recipient.getLsbD (23 - k)
  else false

/-- Phase `p` of the BBSB2011 schedule (41_transmit.md R158): phase 1+k is bit k. -/
def bbsbPhase (j : Job) (p : Nat) : Phase :=
  if p = 0 then ⟨.low, protocol.tBPre⟩
  else ⟨if (p - 1) % 2 = 0 then .high else .low, if bbsbBit j (p - 1) then protocol.tB1 else protocol.tB0⟩

/-- `sched(var)[p]`, computed from the job's fields (41_transmit.md R155). Read only below `schedLength`; without a
variant no phase is ever read. -/
def phaseAt (j : Job) (p : Nat) : Phase :=
  match j.variant with
  | .unknown => ⟨.low, 0⟩
  | .simple => simplePhase j p
  | .advanced => advPhase j p
  | .bbsb => bbsbPhase j p

/-- `sched(var)`, the phases of one repeat (41_transmit.md R155). -/
def sched (j : Job) : List Phase := (List.range (schedLength j.variant)).map (phaseAt j)

/-- Phase `p` begins: the line takes its level and the timer is asked for its duration (41_transmit.md R150, R159). -/
def startPhase (p : Nat) (s : State) : State :=
  emitInterval (phaseAt s.tx p).duration (setLine (phaseAt s.tx p).level s)

/-- `begin_send(var, snd, rcp, cmd, grp)`, the same from every mode (41_transmit.md R150, R165). -/
def beginSend (var : Variant) (snd : BitVec 26) (rcp : BitVec 4) (cmd : BitVec 5) (grp : Bool) (s : State) : State :=
  let s := totalReset (label .none s)
  let job :=
    { s.tx with variant := var, sender := snd, recipient := rcp, command := cmd, group := grp, pos := 0, repeats := 0 }
  startPhase 0 (toSending (setTx job s))

/-- `SENDS snd, rcp, on` (41_transmit.md R151). -/
def execSends (snd : BitVec 4) (rcp : BitVec 4) (on : Bool) (s : State) : Result :=
  .next (beginSend .simple (snd.setWidth 26) rcp (simpleCommand on) false s)

/-- `SENDA snd, rcp, cmd, grp` (41_transmit.md R152). -/
def execSenda (snd : BitVec 26) (rcp : BitVec 4) (cmd grp : Bool) (s : State) : Result :=
  .next (beginSend .advanced snd rcp (bitIn 5 cmd) grp s)

/-- `SENDB snd, rcp, on, grp` (41_transmit.md R153): the group request is folded into the recipient code (R154). -/
def execSendb (snd : BitVec 16) (rcp : BitVec 3) (on grp : Bool) (s : State) : Result :=
  .next (beginSend .bbsb (snd.setWidth 26) ((bbsbSendCode rcp grp).setWidth 4) (bbsbCommand on) false s)

/-- `end_job()` (41_transmit.md R160): no interval; `rearm` is 1. -/
def endJob (s : State) : State :=
  let s := toListening (totalReset (clearJob (setLine .low (label .none s))))
  { s with out := { s.out with rearm := true } }

/-- The next phase `n` of repeat number `rep` begins (41_transmit.md R159). -/
def advanceTo (n : Nat) (rep : BitVec 16) (s : State) : State :=
  let s := label .none s
  startPhase n (setTx { s.tx with pos := BitVec.ofNat 8 n, repeats := rep } s)

/-- `TICK` for a repeat count `p` (41_transmit.md R159 to R161). A job without a variant, or past its schedule's last
phase, is refused: no run reaches one (log 9). -/
def tickWith (p : Nat) (s : State) : Result :=
  if s.mode = .sending then
    let n := s.tx.pos.toNat + 1
    if n = schedLength s.tx.variant then
      if s.tx.repeats.toNat + 1 = p then .next (endJob s) else .next (advanceTo 0 (s.tx.repeats + 1) s)
    else if n < schedLength s.tx.variant then .next (advanceTo n s.tx.repeats s)
    else .refused .unreachableJobState
  else .next (label .none s)

/-- `TICK` (41_transmit.md R159), with the configured `P_REPEAT` (00_scope.md R9). -/
def execTick (s : State) : Result := tickWith Config.pRepeat s

end Sys2Proof.Machine
end

