-- ==== Sys2Proof/Syntax.lean ====
section
/-! DEFINITION. The nine operations (00_scope.md R3; 30_encoding.md R81), one constructor per row of
spec/opcode_table.json, with the operands of rules R82 to R87 at the widths of their fields. -/

namespace Sys2Proof

/-- One operation of the block (30_encoding.md R81). -/
inductive Instr where
  /-- `EDGE width, pol` (R82): one edge event. -/
  | edge (width : Micros) (pol : Polarity)
  /-- `TICK` (R83): one expiry of the recurring timer. -/
  | tick
  /-- `INIT` (R83): arm reception. -/
  | init
  /-- `REGS present` (R84): register or remove the Simple handler. -/
  | regs (present : Bool)
  /-- `REGA present` (R84): register or remove the Advanced handler. -/
  | rega (present : Bool)
  /-- `REGB present` (R84): register or remove the BBSB2011 handler. -/
  | regb (present : Bool)
  /-- `SENDS snd, rcp, on` (R85): send a Simple frame. -/
  | sends (snd : BitVec 4) (rcp : BitVec 4) (on : Bool)
  /-- `SENDA snd, rcp, cmd, grp` (R86): send an Advanced frame. -/
  | senda (snd : BitVec 26) (rcp : BitVec 4) (cmd : Bool) (grp : Bool)
  /-- `SENDB snd, rcp, on, grp` (R87): send a BBSB2011 frame. -/
  | sendb (snd : BitVec 16) (rcp : BitVec 3) (on : Bool) (grp : Bool)
deriving DecidableEq, Repr

end Sys2Proof
end

