-- ==== Sys2Proof/Machine/Dispatch.lean ====
section
/-! DEFINITION. One arm per operation (30_encoding.md R81). -/

namespace Sys2Proof.Machine

def exec (i : Instr) (s : State) : Host.Outcome State Fault Refusal :=
  match i with
  | .edge width pol => Sys2Proof.Machine.execEdge width pol s
  | .tick => Sys2Proof.Machine.execTick s
  | .init => Sys2Proof.Machine.execInit s
  | .regs present => Sys2Proof.Machine.execRegs present s
  | .rega present => Sys2Proof.Machine.execRega present s
  | .regb present => Sys2Proof.Machine.execRegb present s
  | .sends snd rcp on => Sys2Proof.Machine.execSends snd rcp on s
  | .senda snd rcp cmd grp => Sys2Proof.Machine.execSenda snd rcp cmd grp s
  | .sendb snd rcp on grp => Sys2Proof.Machine.execSendb snd rcp on grp s

end Sys2Proof.Machine
end

