-- ==== Sys2Proof/Decode.lean ====
section
/-! DEFINITION. Operation words: the opcode table, the decoder (total, refusing by name) and, after it, the encoder
(30_encoding.md R80 to R89). -/

namespace Sys2Proof

/-- Why a word is refused (30_encoding.md R88). -/
inductive DecodeError where
  /-- `op` is 0x0 or 0xA to 0xF. -/
  | reservedOpcode
  /-- `op` is assigned and a reserved bit of its format is 1. -/
  | reservedBits
deriving DecidableEq, Repr

/-- One row of the opcode table: a word is of the row when its masked bits are the pattern. -/
structure OpRow where
  mnemonic : String
  pattern : Word
  mask : Word
deriving DecidableEq, Repr

/-- The word is of the row. -/
def OpRow.hits (r : OpRow) (w : Word) : Bool := w &&& r.mask == r.pattern

/-- R82. -/
def rowEdge : OpRow := ⟨"EDGE", 0x1000000000000000, 0xFFFFFFFE00000000⟩
/-- R83. -/
def rowTick : OpRow := ⟨"TICK", 0x2000000000000000, 0xFFFFFFFFFFFFFFFF⟩
/-- R83. -/
def rowInit : OpRow := ⟨"INIT", 0x3000000000000000, 0xFFFFFFFFFFFFFFFF⟩
/-- R84. -/
def rowRegs : OpRow := ⟨"REGS", 0x4000000000000000, 0xFFFFFFFFFFFFFFFE⟩
/-- R84. -/
def rowRega : OpRow := ⟨"REGA", 0x5000000000000000, 0xFFFFFFFFFFFFFFFE⟩
/-- R84. -/
def rowRegb : OpRow := ⟨"REGB", 0x6000000000000000, 0xFFFFFFFFFFFFFFFE⟩
/-- R85. -/
def rowSends : OpRow := ⟨"SENDS", 0x7000000000000000, 0xFFFFFFFFFFFFFE00⟩
/-- R86. -/
def rowSenda : OpRow := ⟨"SENDA", 0x8000000000000000, 0xFFFFFFFF00000000⟩
/-- R87. -/
def rowSendb : OpRow := ⟨"SENDB", 0x9000000000000000, 0xFFFFFFFFFFE00000⟩

/-- The opcode table (R81). -/
def opcodeTable : List OpRow :=
  [rowEdge, rowTick, rowInit, rowRegs, rowRega, rowRegb, rowSends, rowSenda, rowSendb]

/-- `w[lo+n-1:lo]`, the field of `n` bits from bit `lo` up (00_scope.md R12). -/
def fieldAt (w : Word) (lo n : Nat) : BitVec n := w.extractLsb' lo n

/-- `w[k]` (00_scope.md R12). -/
def bitAt (w : Word) (k : Nat) : Bool := w.getLsbD k

/-- The polarity named by the bit `pol`: 1 = rising, 0 = falling (R82). -/
def polarityOfBit (b : Bool) : Polarity := if b then .rising else .falling

/-- The name of the refusal of a word that is of no row (R88). -/
def refusalOf (w : Word) : DecodeError :=
  if 1 ≤ (fieldAt w 60 4).toNat ∧ (fieldAt w 60 4).toNat ≤ 9 then .reservedBits else .reservedOpcode

/-- The decoder, total on words (R80 to R89). -/
def decode (w : Word) : Except DecodeError Instr :=
  if rowEdge.hits w then .ok (.edge (fieldAt w 0 32) (polarityOfBit (bitAt w 32)))
  else if rowTick.hits w then .ok .tick
  else if rowInit.hits w then .ok .init
  else if rowRegs.hits w then .ok (.regs (bitAt w 0))
  else if rowRega.hits w then .ok (.rega (bitAt w 0))
  else if rowRegb.hits w then .ok (.regb (bitAt w 0))
  else if rowSends.hits w then .ok (.sends (fieldAt w 0 4) (fieldAt w 4 4) (bitAt w 8))
  else if rowSenda.hits w then .ok (.senda (fieldAt w 0 26) (fieldAt w 26 4) (bitAt w 30) (bitAt w 31))
  else if rowSendb.hits w then .ok (.sendb (fieldAt w 0 16) (fieldAt w 16 3) (bitAt w 19) (bitAt w 20))
  else .error (refusalOf w)

/-- The bit `pol` of a polarity (R82). -/
def bitOfPolarity : Polarity → Bool
  | .rising => true
  | .falling => false

/-- A single-bit field. -/
def bit1 (b : Bool) : BitVec 1 := BitVec.ofBool b

/-- The word of an operation: `op`, the reserved zeros, the fields, from bit 63 down (R82 to R87). -/
def encode : Instr → Word
  | .edge width pol => 0x1#4 ++ 0#27 ++ bit1 (bitOfPolarity pol) ++ width
  | .tick => 0x2#4 ++ 0#60
  | .init => 0x3#4 ++ 0#60
  | .regs present => 0x4#4 ++ 0#59 ++ bit1 present
  | .rega present => 0x5#4 ++ 0#59 ++ bit1 present
  | .regb present => 0x6#4 ++ 0#59 ++ bit1 present
  | .sends snd rcp on => 0x7#4 ++ 0#51 ++ bit1 on ++ rcp ++ snd
  | .senda snd rcp cmd grp => 0x8#4 ++ 0#28 ++ bit1 grp ++ bit1 cmd ++ rcp ++ snd
  | .sendb snd rcp on grp => 0x9#4 ++ 0#39 ++ bit1 grp ++ bit1 on ++ rcp ++ snd

/-- An operation word from `nbits` bits given as a number, the bits above them 0 (log 17). -/
def tableWord (nbits w : Nat) : Word := BitVec.ofNat 64 (w % 2 ^ nbits)

/-- What the decoder reads from a word of spec/opcode_table.json's numbering. The block has no byte order: the word
is taken whole (20_memory.md R63). -/
def decodeTableWord (nbits w : Nat) : Option Instr :=
  match decode (tableWord nbits w) with
  | .ok i => some i
  | .error _ => none

end Sys2Proof
end

