-- ==== Sys2Proof/Machine/Fetch.lean ====
section
/-! DEFINITION. Taking the next operation from the stream: the block takes whole words in arrival order, one a step
(20_memory.md R63, R67; 10_state.md R48). -/

namespace Sys2Proof.Machine

/-- The oldest word that is not taken yet, and the stream behind it. -/
def nextWord (s : State) : Option (Word × List Word) :=
  match s.ops with
  | [] => none
  | w :: rest => some (w, rest)

/-- The refusal of a word the interface does not admit (30_encoding.md R88; 60_exceptions.md R202). -/
def refusalFor : DecodeError → Refusal
  | .reservedOpcode => .reservedOpcode
  | .reservedBits => .reservedBits

/-- One more word arrives at the head of the stream. -/
def deliver (w : Word) (s : State) : State := { s with ops := w :: s.ops }

end Sys2Proof.Machine
end

