-- ==== Sys2Proof/Machine/Step.lean ====
section
/-! DEFINITION. One step: take the oldest operation word, decode it, run it (00_scope.md R7; 20_memory.md R65, R67). -/

namespace Sys2Proof.Machine

/-- One step. An empty stream ends the run (70_reset_and_hazards.md R249, log 3); a word the decoder refuses is refused
by name, and no state changes (30_encoding.md R88). -/
def step (s : State) : Host.Outcome State Fault Refusal :=
  match nextWord s with
  | none => .fault .streamExhausted
  | some (w, rest) =>
    match decode w with
    | .error e => .refused (refusalFor e)
    | .ok i => exec i { s with ops := rest }

/-- `s` with one operation word at the head of the stream, so that the next step takes it (log 2, log 17). -/
def State.withFetchWord (s : State) (nbits w : Nat) : State := deliver (tableWord nbits w) s

end Sys2Proof.Machine
end

