-- ==== Sys2Proof/WellFormed.lean ====
section
/-! DEFINITION. Well-formed operations (30_encoding.md R95). `Instr` carries its operands at their field widths, so
each of its terms is well-formed; the check is made where an operand is still a plain number, on an assembler line:
"An operand that does not fit its field is an assembler error; it is not truncated." -/

namespace Sys2Proof

/-- One assembler line, its numbers not fitted to any field yet (R95), and the listing abbreviation `PHASE` (R96). -/
inductive AsmLine where
  | edge (width : Nat) (pol : Polarity)
  /-- `PHASE level, width`: stands for the `EDGE` word that ends a phase of that level and width (R96). -/
  | phase (level : Level) (width : Nat)
  | tick
  | init
  | regs (present : Nat)
  | rega (present : Nat)
  | regb (present : Nat)
  | sends (snd rcp on : Nat)
  | senda (snd rcp cmd grp : Nat)
  | sendb (snd rcp on grp : Nat)
deriving DecidableEq, Repr

/-- A number fits an unsigned field of `n` bits. -/
def fits (n x : Nat) : Bool := decide (x < 2 ^ n)

/-- Every operand fits its field (R82 to R87, R95). -/
def AsmLine.wellFormed : AsmLine → Bool
  | .edge w _ => fits 32 w
  | .phase _ w => fits 32 w
  | .tick => true
  | .init => true
  | .regs p => fits 1 p
  | .rega p => fits 1 p
  | .regb p => fits 1 p
  | .sends snd rcp on => fits 4 snd && fits 4 rcp && fits 1 on
  | .senda snd rcp cmd grp => fits 26 snd && fits 4 rcp && fits 1 cmd && fits 1 grp
  | .sendb snd rcp on grp => fits 16 snd && fits 3 rcp && fits 1 on && fits 1 grp

/-- The assembler line that spells an operation (R95). -/
def AsmLine.ofInstr : Instr → AsmLine
  | .edge w p => .edge w.toNat p
  | .tick => .tick
  | .init => .init
  | .regs p => .regs p.toNat
  | .rega p => .rega p.toNat
  | .regb p => .regb p.toNat
  | .sends snd rcp on => .sends snd.toNat rcp.toNat on.toNat
  | .senda snd rcp cmd grp => .senda snd.toNat rcp.toNat cmd.toNat grp.toNat
  | .sendb snd rcp on grp => .sendb snd.toNat rcp.toNat on.toNat grp.toNat

end Sys2Proof
end

