-- ==== Sys2Proof/Machine/Assembler.lean ====
section
/-! DEFINITION. The assembler of 30_encoding.md R95 and the listing abbreviation of R96: from the characters of a line
to an operation, or nothing where the line is an error. What R95 leaves open about blanks, letter case and comments is
log 16. -/

namespace Sys2Proof.Machine

/-- A number that fits one bit as that bit. -/
def asBit (x : Nat) : Bool := decide (x % 2 = 1)

/-- The operation of a line whose operands all fit; an operand that does not fit is an error and is not truncated
(R95). -/
def assemble (l : AsmLine) : Option Instr :=
  if l.wellFormed then
    match l with
    | .edge w p => some (.edge (BitVec.ofNat 32 w) p)
    | .phase lvl w => some (.edge (BitVec.ofNat 32 w) (edgeEnding lvl))
    | .tick => some .tick
    | .init => some .init
    | .regs p => some (.regs (asBit p))
    | .rega p => some (.rega (asBit p))
    | .regb p => some (.regb (asBit p))
    | .sends snd rcp on => some (.sends (BitVec.ofNat 4 snd) (BitVec.ofNat 4 rcp) (asBit on))
    | .senda snd rcp cmd grp => some (.senda (BitVec.ofNat 26 snd) (BitVec.ofNat 4 rcp) (asBit cmd) (asBit grp))
    | .sendb snd rcp on grp => some (.sendb (BitVec.ofNat 16 snd) (BitVec.ofNat 3 rcp) (asBit on) (asBit grp))
  else none

/-- The value of a digit, when it is one of the base. -/
def digitValue (base : Nat) (c : Char) : Option Nat :=
  let n := c.toNat
  let d :=
    if 48 ≤ n ∧ n ≤ 57 then n - 48
    else if 65 ≤ n ∧ n ≤ 70 then n - 55
    else if 97 ≤ n ∧ n ≤ 102 then n - 87
    else base
  if d < base then some d else none

/-- The value of a run of digits, most significant first, behind the value read so far. -/
def digitsValue (base : Nat) : Nat → List Char → Option Nat
  | acc, [] => some acc
  | acc, c :: cs =>
    match digitValue base c with
    | none => none
    | some d => digitsValue base (acc * base + d) cs

/-- A run of at least one digit. -/
def numeral (base : Nat) (cs : List Char) : Option Nat := if cs.isEmpty then none else digitsValue base 0 cs

/-- A number: decimal, or hexadecimal with `0x`, or binary with `0b` (R95). -/
def number : List Char → Option Nat
  | '0' :: 'x' :: cs => numeral 16 cs
  | '0' :: 'b' :: cs => numeral 2 cs
  | cs => numeral 10 cs

/-- A blank between tokens. -/
def isBlank (c : Char) : Bool := c == ' ' || c == '\t'

/-- The tokens of a line before any `;`: runs of other characters, and each comma alone. `run` is the run being read,
last character first. -/
def tokens : List Char → List Char → List (List Char)
  | run, [] => if run.isEmpty then [] else [run.reverse]
  | run, c :: cs =>
    let before := if run.isEmpty then [] else [run.reverse]
    if c == ';' then before
    else if isBlank c then before ++ tokens [] cs
    else if c == ',' then before ++ [','] :: tokens [] cs
    else tokens (c :: run) cs

/-- Operands separated by single commas. -/
def operands : List (List Char) → Option (List (List Char))
  | [] => some []
  | [t] => if t = [','] then none else some [t]
  | t :: sep :: rest =>
    if t = [','] ∨ sep ≠ [','] ∨ rest.isEmpty then none
    else (operands rest).map (t :: ·)

/-- `R` = Rising, `F` = Falling (R95). -/
def polarityLetter : List Char → Option Polarity
  | ['R'] => some .rising
  | ['F'] => some .falling
  | _ => none

/-- `L` = Low, `H` = High, as listings write a phase's level (R96). -/
def levelLetter : List Char → Option Level
  | ['L'] => some .low
  | ['H'] => some .high
  | _ => none

/-- The line of a mnemonic and its operands (R95, R96). -/
def lineOf (mnemonic : List Char) (ops : List (List Char)) : Option AsmLine :=
  match mnemonic, ops with
  | ['E', 'D', 'G', 'E'], [w, p] => do return .edge (← number w) (← polarityLetter p)
  | ['P', 'H', 'A', 'S', 'E'], [l, w] => do return .phase (← levelLetter l) (← number w)
  | ['T', 'I', 'C', 'K'], [] => some .tick
  | ['I', 'N', 'I', 'T'], [] => some .init
  | ['R', 'E', 'G', 'S'], [p] => do return .regs (← number p)
  | ['R', 'E', 'G', 'A'], [p] => do return .rega (← number p)
  | ['R', 'E', 'G', 'B'], [p] => do return .regb (← number p)
  | ['S', 'E', 'N', 'D', 'S'], [a, b, c] => do return .sends (← number a) (← number b) (← number c)
  | ['S', 'E', 'N', 'D', 'A'], [a, b, c, d] => do return .senda (← number a) (← number b) (← number c) (← number d)
  | ['S', 'E', 'N', 'D', 'B'], [a, b, c, d] => do return .sendb (← number a) (← number b) (← number c) (← number d)
  | _, _ => none

/-- One line of assembler text (R95): one operation per line. -/
def parseLine (line : List Char) : Option AsmLine :=
  match tokens [] line with
  | [] => none
  | mnemonic :: rest =>
    match operands rest with
    | none => none
    | some ops => lineOf mnemonic ops

/-- The operation word of one line of assembler text. -/
def assembleText (line : List Char) : Option Word :=
  match parseLine line with
  | none => none
  | some l => (assemble l).map encode

end Sys2Proof.Machine
end

