-- ==== Sys2Proof/Machine/Line.lean ====
section
/-! DEFINITION. What the environment agents see and feed: the edge event that ends a phase on the line, and a run of
operations with the outputs of every step (41_transmit.md R163; 00_scope.md R8; 10_state.md R51). -/

namespace Sys2Proof.Machine

/-- The `EDGE` of the edge that ends a phase (41_transmit.md R163; 30_encoding.md R96). -/
def eventOf (p : Phase) : Instr := .edge (BitVec.ofNat 32 p.duration) (edgeEnding p.level)

/-- The events of `k` repeats of a job's schedule, back to back (41_transmit.md R155, R163). -/
def eventsOf (k : Nat) (j : Job) : List Instr := (List.replicate k (sched j)).flatten.map eventOf

/-- The operations run one after the other from a state: every step's outputs in order, and the state after the last;
nothing where one of them is refused (00_scope.md R7, R8). -/
def trace : List Instr → State → Option (List Output × State)
  | [], s => some ([], s)
  | i :: is, s =>
    match exec i s with
    | .next t =>
      match trace is t with
      | some (outs, u) => some (t.out :: outs, u)
      | none => none
    | .fault _ => none
    | .refused _ => none

end Sys2Proof.Machine
end

