-- ==== Sys2Proof/Safety.lean ====
section
/-! DEFINITION. What a run may rely on and what it keeps: the invariant of every state a run reaches (10_state.md R22,
R24, R26 to R39, R45, R46), and the duties of the environment that a stream can show (60_exceptions.md R206;
70_reset_and_hazards.md R236). -/

namespace Sys2Proof.Safety

open Sys2Proof.Machine

/-- The decoder registers at `Idle` (10_state.md R45). -/
def idleDecoder : Decoder where
  stage := .idle
  variant := .unknown
  bitcount := 0
  sender := 0
  recipient := 0
  command := 0
  group := false
  prevbit := false

/-- The job registers without a job (10_state.md R46). -/
def noJob : Job where
  variant := .unknown
  sender := 0
  recipient := 0
  command := 0
  group := false
  pos := 0
  repeats := 0
  pulse := 0

/-- The three values the pair (`MODE`, `INTSRC`) takes (10_state.md R22). -/
abbrev modeSource (s : State) : Prop :=
  (s.mode = .unarmed ∧ s.intsrc = .none) ∨ (s.mode = .listening ∧ s.intsrc = .edgeCapture) ∨
    (s.mode = .sending ∧ s.intsrc = .periodicCompare)

/-- The seven legal (`RX_STAGE`, `RX_VARIANT`) pairs (10_state.md R24). -/
def legalPairs : List (Stage × Variant) :=
  [(.idle, .unknown), (.syncSeen, .unknown), (.syncSeen, .bbsb), (.latchSeen, .advanced), (.inData, .simple),
   (.inData, .advanced), (.inData, .bbsb)]

/-- A state that a model admits as a launch state of the decoder (40_receive.md R126). -/
abbrev legalPair (rx : Decoder) : Prop := (rx.stage, rx.variant) ∈ legalPairs

/-- How far a frame in progress can have come (10_state.md R26; 30_encoding.md R90 to R92). -/
def countInRange (rx : Decoder) : Prop :=
  match rx.stage, rx.variant with
  | .inData, .simple => 1 ≤ rx.bitcount.toNat ∧ rx.bitcount.toNat ≤ 24
  | .inData, .advanced => rx.bitcount.toNat ≤ 63
  | .inData, .bbsb => 1 ≤ rx.bitcount.toNat ∧ rx.bitcount.toNat ≤ 24
  | _, _ => rx.bitcount = 0

/-- Which accumulator bits a frame in progress can have set (10_state.md R27 to R31). -/
def fieldsInUse (rx : Decoder) : Prop :=
  match rx.stage, rx.variant with
  | .inData, .simple => rx.sender.toNat < 16 ∧ rx.command.toNat < 16 ∧ rx.group = false
  | .inData, .advanced => rx.command.toNat < 2
  | .inData, .bbsb => rx.sender.toNat < 65536 ∧ rx.recipient.toNat < 8 ∧ rx.group = false ∧ rx.prevbit = false
  | _, _ => rx.sender = 0 ∧ rx.recipient = 0 ∧ rx.command = 0 ∧ rx.group = false ∧ rx.prevbit = false

/-- The fields a job can hold (10_state.md R33 to R36). -/
def jobFields (j : Job) : Prop :=
  match j.variant with
  | .unknown => False
  | .simple => j.sender.toNat < 16 ∧ (j.command = 14 ∨ j.command = 6) ∧ j.group = false
  | .advanced => j.command.toNat < 2
  | .bbsb =>
    j.sender.toNat < 65536 ∧ j.recipient.toNat < 8 ∧ (j.command = 0x14 ∨ j.command = 0x15) ∧ j.group = false

/-- The invariant of every reachable state. -/
structure Inv (s : State) : Prop where
  /-- R22. -/
  source : modeSource s
  /-- R24. -/
  pair : legalPair s.rx
  /-- R45. -/
  idle : s.rx.stage = .idle → s.rx = idleDecoder
  /-- R46. -/
  decoderAtRest : s.mode ≠ .listening → s.rx = idleDecoder
  /-- R32, R46. -/
  noJobAtRest : s.mode ≠ .sending → s.tx = noJob
  /-- R23, R46. -/
  lineAtRest : s.mode ≠ .sending → s.line = .low
  /-- R26. -/
  count : countInRange s.rx
  /-- R27 to R31. -/
  fields : fieldsInUse s.rx
  /-- R32 to R36. -/
  job : s.mode = .sending → jobFields s.tx
  /-- R37, R38. -/
  place : s.mode = .sending → s.tx.pos.toNat < schedLength s.tx.variant ∧ s.tx.repeats.toNat < Config.pRepeat
  /-- R23, R39. -/
  phase : s.mode = .sending →
    s.line = (phaseAt s.tx s.tx.pos.toNat).level ∧
      s.tx.pulse = BitVec.ofNat 32 (phaseAt s.tx s.tx.pos.toNat).duration

/-- The environment's duty on routing (log 14), for one operation: `EDGE` only while the capture source is selected, `TICK` only
while the timer is (60_exceptions.md R206). The block does not check it. -/
def routed (i : Instr) (s : State) : Bool :=
  match i with
  | .edge _ _ => decide (s.intsrc = .edgeCapture)
  | .tick => decide (s.intsrc = .periodicCompare)
  | _ => true

/-- The polarities of a stream's edges, in order. -/
def polarities : List Instr → List Polarity
  | [] => []
  | .edge _ p :: is => p :: polarities is
  | _ :: is => polarities is

/-- The capture source's duty on polarity: successive edges alternate (70_reset_and_hazards.md R236). The block does not
check it. -/
def alternates : List Polarity → Bool
  | [] => true
  | [_] => true
  | p :: q :: ps => decide (p ≠ q) && alternates (q :: ps)

/-- A safe operation: the block refuses nothing, and the environment routes it as it must. -/
def Safe (i : Instr) (s : State) : Prop := Inv s ∧ routed i s = true

end Sys2Proof.Safety
end

