-- ==== Sys2Proof/Certificates/Slice0/Obligations.lean ====
section
/-! DEFINITION. The statements about the machine, each a rule of spec/ (or a consequence of several) in numbers of the
spec's own. `idleDecoder` and `noJob` are the reset values of 10_state.md R45 and R46, written out in Safety.lean. -/

open Sys2Proof Sys2Proof.Machine Sys2Proof.Safety

namespace Sys2Proof.Claims

/-- The state is ready to decode an edge in the case (stage, variant) (40_receive.md R110). -/
abbrev inCase (s : State) (st : Stage) (v : Variant) : Prop := s.mode = .listening ∧ s.rx.stage = st ∧ s.rx.variant = v

/-- `lo ≤ w ≤ hi` (00_scope.md R15). -/
abbrev within (w : Micros) (lo hi : Nat) : Prop := lo ≤ w.toNat ∧ w.toNat ≤ hi

/-- The value of a Simple half-symbol of index `n` (40_receive.md R112). -/
abbrev simpleReads (w : Micros) (n : Nat) (v : Bool) : Prop :=
  (v = false ∧ within w 280 430) ∨ (v = true ∧ n % 2 = 0 ∧ within w 975 1150)

/-- The value of an Advanced half-symbol (40_receive.md R112). -/
abbrev advReads (w : Micros) (v : Bool) : Prop := (v = false ∧ within w 200 365) ∨ (v = true ∧ within w 1000 1360)

/-- The value of a BBSB2011 bit (40_receive.md R112). -/
abbrev bbsbReads (w : Micros) (v : Bool) : Prop := (v = false ∧ within w 280 340) ∨ (v = true ∧ within w 850 950)

/-- What an accepted Simple half-symbol of index `n` stores (40_receive.md R116): at an odd index, the previous value
shifted in from the top of the 4-bit field of pair `n / 2`. -/
def simpleStores (n : Nat) (rx : Decoder) : Decoder :=
  if n % 2 = 0 then rx
  else if n < 8 then { rx with sender := BitVec.ofNat 26 (rx.sender.toNat % 16 / 2 + 8 * rx.prevbit.toNat) }
  else if n < 16 then { rx with recipient := BitVec.ofNat 4 (rx.recipient.toNat / 2 + 8 * rx.prevbit.toNat) }
  else { rx with command := BitVec.ofNat 5 (rx.command.toNat % 16 / 2 + 8 * rx.prevbit.toNat) }

/-- What an accepted Advanced half-symbol of index `n` stores (40_receive.md R121). -/
def advStores (n : Nat) (rx : Decoder) : Decoder :=
  if n % 2 = 0 then rx
  else if n ≤ 51 then { rx with sender := BitVec.ofNat 26 (2 * rx.sender.toNat + rx.prevbit.toNat) }
  else if n = 53 then { rx with group := rx.prevbit }
  else if n = 55 then { rx with command := BitVec.ofNat 5 rx.prevbit.toNat }
  else { rx with recipient := BitVec.ofNat 4 (2 * rx.recipient.toNat + rx.prevbit.toNat) }

/-- What bit `k` (counted from 1) of a BBSB2011 frame stores (40_receive.md R123). -/
def bbsbStores (k : Nat) (v : Bool) (rx : Decoder) : Decoder :=
  if k ≤ 16 then { rx with sender := BitVec.ofNat 26 ((2 * rx.sender.toNat + v.toNat) % 65536) }
  else if k ≤ 21 then { rx with command := BitVec.ofNat 5 (2 * rx.command.toNat + v.toNat) }
  else if k ≤ 24 then { rx with recipient := BitVec.ofNat 4 ((2 * rx.recipient.toNat + v.toNat) % 8) }
  else rx

/-- The source's receive-side remap (40_receive.md R125). -/
def remapFormula (x : Nat) : Nat := if x ≤ 1 then 0 else if x % 2 = 1 then 4 - x / 2 else 7 - x / 2

/-- The source's send-side recipient transform, masked to 3 bits (41_transmit.md R154). -/
def sendFormula (r : Nat) (g : Bool) : Nat := if g then 1 else if 4 ≤ r then (14 - 2 * r) % 8 else (9 - 2 * r) % 8

/-- The reserved bits of each format (30_encoding.md R82 to R87), by opcode. -/
def reservedMask (op : Nat) : Word :=
  match op with
  | 1 => 0x0FFFFFFE00000000
  | 2 => 0x0FFFFFFFFFFFFFFF
  | 3 => 0x0FFFFFFFFFFFFFFF
  | 4 => 0x0FFFFFFFFFFFFFFE
  | 5 => 0x0FFFFFFFFFFFFFFE
  | 6 => 0x0FFFFFFFFFFFFFFE
  | 7 => 0x0FFFFFFFFFFFFE00
  | 8 => 0x0FFFFFFF00000000
  | 9 => 0x0FFFFFFFFFE00000
  | _ => 0

/-- The operations of `SEND*`. -/
def isSend : Instr → Bool
  | .sends _ _ _ => true
  | .senda _ _ _ _ => true
  | .sendb _ _ _ _ => true
  | _ => false

/-- The operation `EDGE`. -/
def isEdge : Instr → Bool
  | .edge _ _ => true
  | _ => false

/-- The operations `REGS`, `REGA`, `REGB`. -/
def isReg : Instr → Bool
  | .regs _ => true
  | .rega _ => true
  | .regb _ => true
  | _ => false

/-- The decoder registers S3 to S10. -/
def rxRegs : List Reg :=
  [.rxStage, .rxVariant, .rxBitcount, .rxSender, .rxRecipient, .rxCommand, .rxGroup, .rxPrevbit]

/-- The "written by" column of 10_state.md R20. The total reset of S3 to S10 is performed by `EDGE`, and by `SEND*`,
`INIT` and the end of a job (40_receive.md R129; 41_transmit.md R150, R160; 42_control.md R190). -/
def writes (i : Instr) (r : Reg) : Bool :=
  match r with
  | .hslotSimple => match i with | .regs _ => true | _ => false
  | .hslotAdvanced => match i with | .rega _ => true | _ => false
  | .hslotBbsb => match i with | .regb _ => true | _ => false
  | .rxStage => isEdge i || isSend i || decide (i = .init) || decide (i = .tick)
  | .rxVariant => isEdge i || isSend i || decide (i = .init) || decide (i = .tick)
  | .rxBitcount => isEdge i || isSend i || decide (i = .init) || decide (i = .tick)
  | .rxSender => isEdge i || isSend i || decide (i = .init) || decide (i = .tick)
  | .rxRecipient => isEdge i || isSend i || decide (i = .init) || decide (i = .tick)
  | .rxCommand => isEdge i || isSend i || decide (i = .init) || decide (i = .tick)
  | .rxGroup => isEdge i || isSend i || decide (i = .init) || decide (i = .tick)
  | .rxPrevbit => isEdge i || isSend i || decide (i = .init) || decide (i = .tick)
  | _ => isSend i || decide (i = .init) || decide (i = .tick)

/-- The last `TICK` of a job: the last phase of the last repeat has elapsed (41_transmit.md R159). -/
def lastTick (s : State) : Prop :=
  s.mode = .sending ∧ s.tx.pos.toNat + 1 = (sched s.tx).length ∧ s.tx.repeats.toNat + 1 = Config.pRepeat

/-- The mode an operation leaves the block in (60_exceptions.md R210). -/
def modeAfter (i : Instr) (s : State) (m : Mode) : Prop :=
  match i with
  | .edge _ _ => m = s.mode
  | .tick => (lastTick s → m = .listening) ∧ (¬lastTick s → m = s.mode)
  | .init => m = .listening
  | .regs _ => m = s.mode
  | .rega _ => m = s.mode
  | .regb _ => m = s.mode
  | .sends _ _ _ => m = .sending
  | .senda _ _ _ _ => m = .sending
  | .sendb _ _ _ _ => m = .sending

/-- The outputs of `k` received frames: their outcomes in order, their messages, and how many of them were handed to the
handler (41_transmit.md R163). -/
def receives (outs : List Output) (k : Nat) (perFrame : List Label) (m : Message) (handler : Bool) : Prop :=
  outs.map (·.outcome) = (List.replicate k perFrame).flatten ∧ outs.filterMap (·.msg) = List.replicate k m ∧
    (outs.filter (·.dispatched)).length = if handler then k else 0

/-- Three registers' worth of another application's choice: the handler slots replaced. -/
def withSlots (a b c : Bool) (s : State) : State := { s with hslotSimple := a, hslotAdvanced := b, hslotBbsb := c }

end Sys2Proof.Claims

open Sys2Proof.Claims

/-! ## Words -/

/-- 30_encoding.md R95 and 95_test_vectors.md 2.1: the worked words decode to the operations they are written for. -/
def Obligations.WorkedWordsDecode : Prop :=
  decode 0x1000000100002710 = .ok (.edge 10000 .rising) ∧ decode 0x1000000000002710 = .ok (.edge 10000 .falling) ∧
  decode 0x2000000000000000 = .ok .tick ∧ decode 0x3000000000000000 = .ok .init ∧
  decode 0x4000000000000001 = .ok (.regs true) ∧ decode 0x5000000000000000 = .ok (.rega false) ∧
  decode 0x6000000000000001 = .ok (.regb true) ∧ decode 0x70000000000001A5 = .ok (.sends 5 10 true) ∧
  decode 0x800000004C012345 = .ok (.senda 0x12345 3 true false) ∧
  decode 0x90000000000B00FF = .ok (.sendb 255 3 true false)

/-- 30_encoding.md R82 to R87: a word is of a format exactly when its masked bits are the format's match, and a word put
together from the match and the operands at their bit positions decodes to the operation with those operands, at every
value of every operand. -/
def Obligations.FormatsPlaceOperands : Prop :=
  (∀ w : Word,
    ((∃ a b, decode w = .ok (.edge a b)) ↔ w &&& 0xFFFFFFFE00000000 = 0x1000000000000000) ∧
    (decode w = .ok .tick ↔ w &&& 0xFFFFFFFFFFFFFFFF = 0x2000000000000000) ∧
    (decode w = .ok .init ↔ w &&& 0xFFFFFFFFFFFFFFFF = 0x3000000000000000) ∧
    ((∃ a, decode w = .ok (.regs a)) ↔ w &&& 0xFFFFFFFFFFFFFFFE = 0x4000000000000000) ∧
    ((∃ a, decode w = .ok (.rega a)) ↔ w &&& 0xFFFFFFFFFFFFFFFE = 0x5000000000000000) ∧
    ((∃ a, decode w = .ok (.regb a)) ↔ w &&& 0xFFFFFFFFFFFFFFFE = 0x6000000000000000) ∧
    ((∃ a b c, decode w = .ok (.sends a b c)) ↔ w &&& 0xFFFFFFFFFFFFFE00 = 0x7000000000000000) ∧
    ((∃ a b c d, decode w = .ok (.senda a b c d)) ↔ w &&& 0xFFFFFFFF00000000 = 0x8000000000000000) ∧
    ((∃ a b c d, decode w = .ok (.sendb a b c d)) ↔ w &&& 0xFFFFFFFFFFE00000 = 0x9000000000000000)) ∧
  (∀ (w : BitVec 32) (p : Bool),
    decode (BitVec.ofNat 64 (0x1000000000000000 + p.toNat * 2 ^ 32 + w.toNat)) =
      .ok (.edge w (if p then .rising else .falling))) ∧
  (∀ p : Bool,
    decode (BitVec.ofNat 64 (0x4000000000000000 + p.toNat)) = .ok (.regs p) ∧
    decode (BitVec.ofNat 64 (0x5000000000000000 + p.toNat)) = .ok (.rega p) ∧
    decode (BitVec.ofNat 64 (0x6000000000000000 + p.toNat)) = .ok (.regb p)) ∧
  (∀ (snd rcp : BitVec 4) (on : Bool),
    decode (BitVec.ofNat 64 (0x7000000000000000 + on.toNat * 2 ^ 8 + rcp.toNat * 2 ^ 4 + snd.toNat)) =
      .ok (.sends snd rcp on)) ∧
  (∀ (snd : BitVec 26) (rcp : BitVec 4) (cmd grp : Bool),
    decode (BitVec.ofNat 64
      (0x8000000000000000 + grp.toNat * 2 ^ 31 + cmd.toNat * 2 ^ 30 + rcp.toNat * 2 ^ 26 + snd.toNat)) =
      .ok (.senda snd rcp cmd grp)) ∧
  (∀ (snd : BitVec 16) (rcp : BitVec 3) (on grp : Bool),
    decode (BitVec.ofNat 64
      (0x9000000000000000 + grp.toNat * 2 ^ 20 + on.toNat * 2 ^ 19 + rcp.toNat * 2 ^ 16 + snd.toNat)) =
      .ok (.sendb snd rcp on grp))

/-- The decoder gives back every operation from its own word: no operand bit of any format is dropped. -/
def Obligations.DecodeOfEncode : Prop := ∀ i : Instr, decode (encode i) = .ok i

/-- A decoded word is the word of the operation it decodes to: no two words mean the same operation, and no reserved bit
is passed over (30_encoding.md R80, R88). -/
def Obligations.EncodeOfDecode : Prop := ∀ (w : Word) (i : Instr), decode w = .ok i → encode i = w

/-- 30_encoding.md R88: a word is refused when its `op` is 0x0 or 0xA to 0xF, or when any of its reserved bits is 1, and only
then. Where it is at the head of the stream the step is refused: there is no next state and no output. Which of its two
names a refusal bears is the model's choice (log 7); the statement does not say. -/
def Obligations.ReservedWordsRefused : Prop :=
  ∀ w : Word,
    (1 ≤ w.toNat / 2 ^ 60 ∧ w.toNat / 2 ^ 60 ≤ 9 ∧ w &&& reservedMask (w.toNat / 2 ^ 60) = 0 →
      ∃ i, decode w = .ok i) ∧
    (w.toNat / 2 ^ 60 = 0 ∨ 10 ≤ w.toNat / 2 ^ 60 ∨ w &&& reservedMask (w.toNat / 2 ^ 60) ≠ 0 →
      (∃ e, decode w = .error e) ∧
        ∀ (s : State) (rest : List Word), s.ops = w :: rest →
          step s = .refused .reservedOpcode ∨ step s = .refused .reservedBits)

/-- 30_encoding.md R95: a line whose operands all fit gives the operation it spells, every operation is spelt by such a
line, and an operand that does not fit is an error, not truncated. -/
def Obligations.AssemblerFitsOrFails : Prop :=
  (∀ i : Instr, assemble (AsmLine.ofInstr i) = some i) ∧
  (∀ l : AsmLine, l.wellFormed = false → assemble l = none) ∧
  (∀ l : AsmLine, l.wellFormed = true → ∃ i, assemble l = some i ∧
    ((∃ lvl w, l = .phase lvl w ∧
        i = .edge (BitVec.ofNat 32 w) (match lvl with | .low => .rising | .high => .falling)) ∨
      AsmLine.ofInstr i = l))

/-! ## Steps -/

/-- A step runs the operation at the head of the stream, on the state with that word taken, and puts nothing around it. -/
def Obligations.StepRunsDecodedOperation : Prop :=
  ∀ (s : State) (w : Word) (rest : List Word) (i : Instr),
    s.ops = w :: rest → decode w = .ok i → step s = exec i { s with ops := rest }

/-- Every step that happens takes exactly the oldest word, and every word it does not take stays in its place: nothing is
buffered, dropped or reordered (20_memory.md R67). -/
def Obligations.StepTakesOneWordInOrder : Prop :=
  ∀ s t : State, step s = .next t → ∃ w i, s.ops = w :: t.ops ∧ decode w = .ok i

/-- The model's choice (log 3) for 70_reset_and_hazards.md R249: a step on an exhausted stream is the end of the run, and it
is the only step that faults. -/
def Obligations.OnlyExhaustedStreamFaults : Prop := ∀ s : State, step s = .fault .streamExhausted ↔ s.ops = []

/-- Stepping the words of a list of operations is running the operations: `trace` is `step` with the outputs kept. -/
def Obligations.TraceIsRunOfSteps : Prop :=
  ∀ (is : List Instr) (s u : State) (outs : List Output), trace is s = some (outs, u) →
    Sys2Proof.core.run is.length { s with ops := is.map encode ++ s.ops } = .next u ∧ outs.length = is.length

/-- In every state that a run reaches, every one of the nine operations, with any operands, is accepted in every mode and
answers a next state (60_exceptions.md R211, R200). -/
def Obligations.EveryOperationAcceptedInEveryMode : Prop := ∀ (s : State) (i : Instr), Inv s → ∃ t, exec i s = .next t

/-! ## State and reset -/

/-- 70_reset_and_hazards.md R230: every register S0 to S21 is 0 after reset. -/
def Obligations.ResetPutsEveryRegisterAtZero : Prop :=
  ∀ r : Reg, State.reset.read r = 0

/-- The model's own fields after reset (log 2, log 4): no operation has arrived, no step has been taken. -/
def Obligations.ResetStreamEmptyAndQuiet : Prop :=
  State.reset.ops = [] ∧
    State.reset.out = { outcome := .none, msg := none, dispatched := false, interval := none, rearm := false }

/-- Every register's value fits the width 10_state.md R20 gives it, in every state. -/
def Obligations.RegistersFitTheirWidths : Prop := ∀ (s : State) (r : Reg), s.read r < 2 ^ r.width

/-- Each register is changed only by the operations of the "written by" column of 10_state.md R20; the operations that
have arrived are never touched. This is the frame of every operation. -/
def Obligations.RegistersChangeOnlyByTheirWriters : Prop :=
  ∀ (i : Instr) (s t : State), exec i s = .next t →
    (∀ r : Reg, writes i r = false → t.read r = s.read r) ∧ t.ops = s.ops

/-- The frame of `EDGE`: it writes the decoder registers S3 to S10 and no other. -/
def Obligations.EdgeWritesDecoderRegistersOnly : Prop :=
  ∀ (w : Micros) (p : Polarity) (s t : State), exec (.edge w p) s = .next t →
    (∀ r : Reg, r ∉ rxRegs → t.read r = s.read r) ∧ t.tx = s.tx ∧ t.ops = s.ops

/-- 10_state.md R22: the pair (`MODE`, `INTSRC`) always takes one of its three values: it is (`UNARMED`, `NONE`) after
reset, and every operation keeps it so, with the one written whenever the other is. -/
def Obligations.ModeAndSourceStayPaired : Prop :=
  State.reset.mode = .unarmed ∧ State.reset.intsrc = .none ∧
    ∀ (i : Instr) (s t : State), modeSource s → exec i s = .next t →
      modeSource t ∧ (t.mode = s.mode ↔ t.intsrc = s.intsrc)

/-- 10_state.md R45: at `Idle` every accumulator is 0 and the variant is Unknown; every operation keeps it so. -/
def Obligations.IdleStageMeansClearDecoder : Prop :=
  (State.reset.rx.stage = .idle → State.reset.rx = idleDecoder) ∧
    ∀ (i : Instr) (s t : State), (s.rx.stage = .idle → s.rx = idleDecoder) → exec i s = .next t →
      (t.rx.stage = .idle → t.rx = idleDecoder)

/-- The invariant holds after reset, with any operations waiting. -/
def Obligations.ResetMeetsInvariant : Prop := ∀ ops : List Word, Inv { State.reset with ops := ops }

/-- HEADLINE. Every step keeps the invariant of Safety.lean: the three mode pairs, the seven decoder pairs, a clear decoder
outside a frame, no job and a Low line outside `SENDING`, the counts and fields of a frame in progress, the fields,
position and repeat of a job, and the line and the armed interval at the phase the job is in. -/
def Obligations.StepKeepsInvariant : Prop := ∀ s t : State, Inv s → step s = .next t → Inv t

/-- 10_state.md R25: `RX_VARIANT` is Unknown after reset, and a change of it is a total reset or a choice of the
synchronizer. -/
def Obligations.VariantFixedDuringFrame : Prop :=
  State.reset.rx.variant = .unknown ∧
  ∀ (i : Instr) (s t : State), exec i s = .next t → t.rx.variant ≠ s.rx.variant →
    t.rx = idleDecoder ∨
    (s.mode = .listening ∧ s.rx.stage = .idle ∧ s.rx.variant = .unknown ∧ t.rx.variant = .bbsb) ∨
    (s.mode = .listening ∧ s.rx.stage = .syncSeen ∧ s.rx.variant = .unknown ∧
      (t.rx.variant = .simple ∨ t.rx.variant = .advanced))

/-! ## Primitives -/

/-- 00_scope.md R16: the shift-in primitives as arithmetic on unsigned numbers. -/
def Obligations.ShiftInPrimitives : Prop :=
  ∀ (n : Nat) (acc : BitVec n) (b : Bool), 1 ≤ n →
    (shlIn acc b).toNat = (2 * acc.toNat + b.toNat) % 2 ^ n ∧
    (shrIn acc b).toNat = acc.toNat / 2 + b.toNat * 2 ^ (n - 1)

/-- 40_receive.md R112: the classifiers. A width in no window is `INVALID`, and no width has two values. -/
def Obligations.ClassifiersFollowWindows : Prop :=
  ∀ (w : Micros) (n : Nat) (v : Bool),
    (simpleVal w n = some v ↔ simpleReads w n v) ∧ (advVal w = some v ↔ advReads w v) ∧
    (bbsbVal w = some v ↔ bbsbReads w v) ∧ (simpleGapOk w = true ↔ within w 280 430 ∨ within w 975 1150)

/-- 40_receive.md R125 and 41_transmit.md R154: the recipient tables are the source's formulas, and their composition is
the table of R154: the recipient comes back for r = 0 to 6, r = 1 comes back as a group command, r = 7 comes back as 0,
and a group request comes back as recipient 0 without the group. The last two lines are the group rows of the tables. -/
def Obligations.RecipientTransforms : Prop :=
  ∀ (r : BitVec 3) (g : Bool),
    (bbsbRemap r).toNat = remapFormula r.toNat ∧ (bbsbSendCode r g).toNat = sendFormula r.toNat g ∧
    (bbsbRemap (bbsbSendCode r g)).toNat = (if g = false ∧ r.toNat ≤ 6 then r.toNat else 0) ∧
    (bbsbRemap r = 1 ↔ r = 7) ∧ (bbsbRemap (bbsbSendCode r g) = 1 ↔ g = false ∧ r = 1)

/-! ## EDGE -/

/-- 40_receive.md R131: outside `LISTENING` an `EDGE` changes no state and has outcome `IGNORED` with no message. -/
def Obligations.EdgeIgnoredOutsideListening : Prop :=
  ∀ (s : State) (w : Micros) (p : Polarity), s.mode ≠ .listening →
    exec (.edge w p) s = .next { s with out := { outcome := .ignored } }

/-- 40_receive.md R113: the preamble. A Low phase is one that a rising edge ends (R111). -/
def Obligations.PreambleSelectsVariant : Prop :=
  ∀ (s : State) (w : Micros) (p : Polarity), inCase s .idle .unknown →
    (p = .rising → within w 9480 11500 →
      exec (.edge w p) s =
        .next { s with rx := { s.rx with stage := .syncSeen }, out := { outcome := .progress } }) ∧
    (p = .rising → within w 8500 9479 →
      exec (.edge w p) s =
        .next { s with rx := { s.rx with stage := .syncSeen, variant := .bbsb }, out := { outcome := .progress } }) ∧
    (p = .falling ∨ w.toNat < 8500 ∨ 11500 < w.toNat →
      exec (.edge w p) s = .next { s with out := { outcome := .ignored } })

/-- 40_receive.md R114: after a preamble of 9480 to 11500 µs, a High pulse of 200 to 350 µs selects Advanced, another
accepted High pulse selects Simple and is its half-symbol 0, and everything else aborts. In every reachable state
`RX_BITCOUNT` is 0 here (`StepKeepsInvariant`). -/
def Obligations.PulseAfterPreambleSelectsVariant : Prop :=
  ∀ (s : State) (w : Micros) (p : Polarity), inCase s .syncSeen .unknown → s.rx.bitcount = 0 →
    (p = .falling → within w 200 350 →
      exec (.edge w p) s =
        .next
          { s with rx := { s.rx with stage := .latchSeen, variant := .advanced }, out := { outcome := .progress } }) ∧
    (p = .falling → ¬within w 200 350 → ∀ v, simpleReads w 0 v →
      exec (.edge w p) s =
        .next
          { s with
            rx := { s.rx with stage := .inData, variant := .simple, prevbit := v, bitcount := 1 }
            out := { outcome := .progress } }) ∧
    (p = .rising ∨ (¬within w 200 350 ∧ ∀ v, ¬simpleReads w 0 v) →
      exec (.edge w p) s = .next { s with rx := idleDecoder, out := { outcome := .abortWindow } })

/-- 40_receive.md R115: the Low half of the Advanced latch. -/
def Obligations.LatchLowPulse : Prop :=
  ∀ (s : State) (w : Micros) (p : Polarity), inCase s .latchSeen .advanced →
    (p = .rising → within w 2350 2750 →
      exec (.edge w p) s =
        .next
          { s with rx := { s.rx with stage := .inData, sender := 0, bitcount := 0 }, out := { outcome := .progress } }) ∧
    (p = .falling ∨ ¬within w 2350 2750 →
      exec (.edge w p) s = .next { s with rx := idleDecoder, out := { outcome := .abortWindow } })

/-- 40_receive.md R117: a Low phase of a Simple frame is a gap: checked, not counted, not stored. -/
def Obligations.SimpleGapChecked : Prop :=
  ∀ (s : State) (w : Micros), inCase s .inData .simple →
    (within w 280 430 ∨ within w 975 1150 →
      exec (.edge w .rising) s = .next { s with out := { outcome := .progress } }) ∧
    (¬(within w 280 430 ∨ within w 975 1150) →
      exec (.edge w .rising) s = .next { s with rx := idleDecoder, out := { outcome := .abortWindow } })

/-- 40_receive.md R116 and R118: a High phase of a Simple frame as half-symbol `n`, with the completion at `n` = 24: only
commands 14 and 6 give a message, and the decoder is reset in each case. -/
def Obligations.SimpleHalfSymbol : Prop :=
  ∀ (s : State) (w : Micros) (n : Nat), inCase s .inData .simple → s.rx.bitcount.toNat = n → n ≤ 24 →
    ((∀ v, ¬simpleReads w n v) →
      exec (.edge w .falling) s = .next { s with rx := idleDecoder, out := { outcome := .abortWindow } }) ∧
    (∀ v, simpleReads w n v → n < 24 →
      exec (.edge w .falling) s =
        .next
          { s with
            rx := { simpleStores n s.rx with prevbit := v, bitcount := BitVec.ofNat 8 (n + 1) }
            out := { outcome := .progress } }) ∧
    (∀ v, simpleReads w n v → n = 24 →
      exec (.edge w .falling) s =
        .next
          { s with
            rx := idleDecoder
            out :=
              if s.rx.command.toNat % 16 = 14 ∨ s.rx.command.toNat % 16 = 6 then
                { outcome := .complete
                  msg :=
                    some (.simple (BitVec.ofNat 4 s.rx.sender.toNat) s.rx.recipient
                      (decide (s.rx.command.toNat % 16 = 14)))
                  dispatched := s.hslotSimple }
              else { outcome := .completeSilent } })

/-- 40_receive.md R119 to R122: a half-symbol `n` of an Advanced frame, of either level: window, then parity, then the
commit of the previous value; half-symbol 63 completes the frame with its message. -/
def Obligations.AdvancedHalfSymbol : Prop :=
  ∀ (s : State) (w : Micros) (p : Polarity) (n : Nat),
    inCase s .inData .advanced → s.rx.bitcount.toNat = n → n ≤ 63 →
    ((∀ v, ¬advReads w v) →
      exec (.edge w p) s = .next { s with rx := idleDecoder, out := { outcome := .abortWindow } }) ∧
    (∀ v, advReads w v → n % 2 = 1 → v = s.rx.prevbit →
      exec (.edge w p) s = .next { s with rx := idleDecoder, out := { outcome := .abortParity } }) ∧
    (∀ v, advReads w v → ¬(n % 2 = 1 ∧ v = s.rx.prevbit) → n < 63 →
      exec (.edge w p) s =
        .next
          { s with
            rx := { advStores n s.rx with prevbit := v, bitcount := BitVec.ofNat 8 (n + 1) }
            out := { outcome := .progress } }) ∧
    (∀ v, advReads w v → v ≠ s.rx.prevbit → n = 63 →
      exec (.edge w p) s =
        .next
          { s with
            rx := idleDecoder
            out :=
              { outcome := .complete
                msg :=
                  some (.advanced s.rx.sender (BitVec.ofNat 4 (2 * s.rx.recipient.toNat + s.rx.prevbit.toNat))
                    (decide (s.rx.command.toNat % 2 = 1)) s.rx.group)
                dispatched := s.hslotAdvanced } })

/-- 40_receive.md R123 to R125: bit `k` (from 1) of a BBSB2011 frame, of either level; bit 25 completes the frame: only
commands 0x14 and 0x15 give a message, with the remapped recipient, and the decoder is reset in each case. -/
def Obligations.BbsbBit : Prop :=
  ∀ (s : State) (w : Micros) (p : Polarity) (k : Nat),
    inCase s .inData .bbsb ∨ inCase s .syncSeen .bbsb → s.rx.bitcount.toNat + 1 = k → k ≤ 25 →
    ((∀ v, ¬bbsbReads w v) →
      exec (.edge w p) s = .next { s with rx := idleDecoder, out := { outcome := .abortWindow } }) ∧
    (∀ v, bbsbReads w v → k < 25 →
      exec (.edge w p) s =
        .next
          { s with
            rx := { bbsbStores k v s.rx with stage := .inData, bitcount := BitVec.ofNat 8 k }
            out := { outcome := .progress } }) ∧
    (∀ v, bbsbReads w v → k = 25 →
      exec (.edge w p) s =
        .next
          { s with
            rx := idleDecoder
            out :=
              if s.rx.command = 0x14 ∨ s.rx.command = 0x15 then
                { outcome := .complete
                  msg :=
                    some (.bbsb2011 (BitVec.ofNat 16 s.rx.sender.toNat)
                      (BitVec.ofNat 3 (remapFormula (s.rx.recipient.toNat % 8)))
                      (decide (s.rx.command = 0x15))
                      (decide (remapFormula (s.rx.recipient.toNat % 8) = 1)))
                  dispatched := s.hslotBbsb }
              else { outcome := .completeSilent } })

/-- 40_receive.md R126: an `EDGE` in `LISTENING` in a (stage, variant) pair outside the seven is refused by name; in each
of the seven it answers a next state. That the refusal stands in `EDGE`, and its name, are the model's choice (log 8). -/
def Obligations.OnlySevenDecoderPairsRun : Prop :=
  ∀ (s : State) (w : Micros) (p : Polarity), s.mode = .listening →
    (¬legalPair s.rx → exec (.edge w p) s = .refused .unreachableDecoderState) ∧
    (legalPair s.rx → ∃ t, exec (.edge w p) s = .next t)

/-- 40_receive.md R127 and R129: an abort is the total reset of the decoder, whatever the variant and the stage: every
decoder register at its reset value, no message, no handler, nothing else changed. -/
def Obligations.AbortIsTotalReset : Prop :=
  ∀ (w : Micros) (p : Polarity) (s t : State), exec (.edge w p) s = .next t →
    (t.out.outcome = .abortWindow ∨ t.out.outcome = .abortParity) →
    t = { s with rx := idleDecoder, out := { outcome := t.out.outcome } }

/-- 60_exceptions.md R201: what each outcome label of an `EDGE` says of the step. -/
def Obligations.EdgeOutcomeLabels : Prop :=
  ∀ (w : Micros) (p : Polarity) (s t : State), exec (.edge w p) s = .next t →
    t.out.outcome ≠ .none ∧
    (t.out.outcome = .ignored → t = { s with out := { outcome := .ignored } }) ∧
    (t.out.outcome = .progress → t.rx.stage ≠ .idle) ∧
    (t.out.outcome = .abortWindow ∨ t.out.outcome = .abortParity ∨ t.out.outcome = .complete ∨
      t.out.outcome = .completeSilent → s.mode = .listening ∧ t.rx = idleDecoder) ∧
    t.out.interval = none ∧ t.out.rearm = false

/-- The outputs of the other eight operations (10_state.md 10): no label and no message; an interval exactly when a phase
of a job begins, in `SENDING`, and then it is the armed pulse; `rearm` exactly when a job ends. -/
def Obligations.OtherOperationsOutputs : Prop :=
  ∀ (i : Instr) (s t : State), isEdge i = false → exec i s = .next t →
    t.out.outcome = .none ∧ t.out.msg = none ∧ t.out.dispatched = false ∧
    (t.out.interval = if (i = .tick ∨ isSend i = true) ∧ t.mode = .sending then some t.tx.pulse else none) ∧
    (t.out.rearm = true ↔ i = .tick ∧ s.mode = .sending ∧ t.mode = .listening)

/-- 40_receive.md R130: a step carries a message exactly when it is the `EDGE` that completes a frame with outcome
`COMPLETE`, and the handler of the message's variant is called in that step exactly when its slot says it is
registered. -/
def Obligations.DispatchFollowsHandlerSlot : Prop :=
  ∀ (i : Instr) (s t : State), exec i s = .next t →
    (t.out.msg.isSome = true ↔ isEdge i = true ∧ t.out.outcome = .complete) ∧
    (t.out.msg = none → t.out.dispatched = false) ∧
    (∀ a b c, t.out.msg = some (.simple a b c) → t.out.dispatched = s.hslotSimple) ∧
    (∀ a b c d, t.out.msg = some (.advanced a b c d) → t.out.dispatched = s.hslotAdvanced) ∧
    (∀ a b c d, t.out.msg = some (.bbsb2011 a b c d) → t.out.dispatched = s.hslotBbsb)

/-- No partial or garbled message: a message comes only from an `EDGE` in `LISTENING` at the terminal count of the variant
fixed at synchronisation, whose width lies in that variant's window (40_receive.md 7). -/
def Obligations.MessageOnlyAtTerminalCount : Prop :=
  ∀ (i : Instr) (s t : State) (m : Message), exec i s = .next t → t.out.msg = some m → Inv s →
    ∃ w p v, i = .edge w p ∧
      ((inCase s .inData .simple ∧ s.rx.bitcount = 24 ∧ p = .falling ∧ simpleReads w 24 v ∧ m.variant = .simple) ∨
       (inCase s .inData .advanced ∧ s.rx.bitcount = 63 ∧ advReads w v ∧ v ≠ s.rx.prevbit ∧ m.variant = .advanced) ∨
       (inCase s .inData .bbsb ∧ s.rx.bitcount = 24 ∧ bbsbReads w v ∧ m.variant = .bbsb))

/-! ## SEND*, TICK -/

/-- 41_transmit.md R150, R151, R165: `SENDS`, the same from every mode; nothing of an earlier job or frame is left. -/
def Obligations.SendsStartsJob : Prop :=
  ∀ (s : State) (snd rcp : BitVec 4) (on : Bool),
    exec (.sends snd rcp on) s =
      .next
        { s with
          mode := .sending, intsrc := .periodicCompare, line := .low, rx := idleDecoder
          tx :=
            { variant := .simple, sender := BitVec.ofNat 26 snd.toNat, recipient := rcp,
              command := if on then 14 else 6, group := false, pos := 0, repeats := 0, pulse := 10000 }
          out := { interval := some 10000 } }

/-- 41_transmit.md R150, R152, R165: `SENDA`. -/
def Obligations.SendaStartsJob : Prop :=
  ∀ (s : State) (snd : BitVec 26) (rcp : BitVec 4) (cmd grp : Bool),
    exec (.senda snd rcp cmd grp) s =
      .next
        { s with
          mode := .sending, intsrc := .periodicCompare, line := .low, rx := idleDecoder
          tx :=
            { variant := .advanced, sender := snd, recipient := rcp, command := if cmd then 1 else 0, group := grp,
              pos := 0, repeats := 0, pulse := 10000 }
          out := { interval := some 10000 } }

/-- 41_transmit.md R150, R153, R154, R165: `SENDB`, with the recipient code of the source's transform. -/
def Obligations.SendbStartsJob : Prop :=
  ∀ (s : State) (snd : BitVec 16) (rcp : BitVec 3) (on grp : Bool),
    exec (.sendb snd rcp on grp) s =
      .next
        { s with
          mode := .sending, intsrc := .periodicCompare, line := .low, rx := idleDecoder
          tx :=
            { variant := .bbsb, sender := BitVec.ofNat 26 snd.toNat,
              recipient := BitVec.ofNat 4 (sendFormula rcp.toNat grp), command := if on then 0x15 else 0x14,
              group := false, pos := 0, repeats := 0, pulse := 9000 }
          out := { interval := some 9000 } }

/-- 41_transmit.md R159 to R161: a `TICK` outside `SENDING` changes no state and produces no output; a `TICK` of a job
begins the next phase of the repeat, or the first phase of the next repeat, or ends the job. -/
def Obligations.TickAdvancesSchedule : Prop :=
  ∀ (s : State) (lvl : Level) (d : Nat),
    (s.mode ≠ .sending → exec .tick s = .next { s with out := {} }) ∧
    (s.mode = .sending → (sched s.tx)[s.tx.pos.toNat + 1]? = some ⟨lvl, d⟩ →
      exec .tick s =
        .next
          { s with
            line := lvl
            tx := { s.tx with pos := BitVec.ofNat 8 (s.tx.pos.toNat + 1), pulse := BitVec.ofNat 32 d }
            out := { interval := some (BitVec.ofNat 32 d) } }) ∧
    (s.mode = .sending → s.tx.pos.toNat + 1 = (sched s.tx).length → s.tx.repeats.toNat + 1 ≠ Config.pRepeat →
      (sched s.tx)[0]? = some ⟨lvl, d⟩ →
      exec .tick s =
        .next
          { s with
            line := lvl
            tx :=
              { s.tx with
                pos := 0, repeats := BitVec.ofNat 16 (s.tx.repeats.toNat + 1), pulse := BitVec.ofNat 32 d }
            out := { interval := some (BitVec.ofNat 32 d) } }) ∧
    (s.mode = .sending → s.tx.pos.toNat + 1 = (sched s.tx).length → s.tx.repeats.toNat + 1 = Config.pRepeat →
      exec .tick s =
        .next
          { s with
            mode := .listening, intsrc := .edgeCapture, line := .low, rx := idleDecoder, tx := noJob
            out := { rearm := true } })

/-- The model's choice (log 9): a `TICK` in `SENDING` past the schedule's last phase, or without a job variant, is
refused by name. No run reaches such a state (`StepKeepsInvariant`). -/
def Obligations.TickPastScheduleRefused : Prop :=
  ∀ s : State, s.mode = .sending → (sched s.tx).length < s.tx.pos.toNat + 1 →
    exec .tick s = .refused .unreachableJobState

/-- Every `TICK` in `SENDING` inverts `LINE`, the last one of a job too (10_state.md R23; 41_transmit.md R159, R160). -/
def Obligations.TickInvertsLine : Prop :=
  ∀ s : State, Inv s → s.mode = .sending → ∃ t, exec .tick s = .next t ∧ t.line ≠ s.line

/-- 41_transmit.md R155: every schedule has even length 50, 68 or 26, begins Low, ends High, and consecutive phases have
opposite levels. -/
def Obligations.SchedulesAlternate : Prop :=
  ∀ j : Job, j.variant ≠ .unknown →
    (sched j).length = (if j.variant = .simple then 50 else if j.variant = .advanced then 68 else 26) ∧
    (∃ d, (sched j)[0]? = some ⟨.low, d⟩) ∧ (∃ d, (sched j)[(sched j).length - 1]? = some ⟨.high, d⟩) ∧
    ∀ (p : Nat) (a b : Phase), (sched j)[p]? = some a → (sched j)[p + 1]? = some b → a.level ≠ b.level

/-- 41_transmit.md R156: the phases of a Simple frame, each field least-significant bit first, each bit a High slot with
the gap that fills 1500 µs, then a short slot. -/
def Obligations.SimpleScheduleContents : Prop :=
  ∀ j : Job, j.variant = .simple →
    (sched j).length = 50 ∧ (sched j)[0]? = some ⟨.low, 10000⟩ ∧ (sched j)[49]? = some ⟨.high, 375⟩ ∧
    (∀ k b, (k < 4 ∧ b = j.sender.getLsbD k) ∨ (4 ≤ k ∧ k < 8 ∧ b = j.recipient.getLsbD (k - 4)) ∨
        (8 ≤ k ∧ k < 12 ∧ b = j.command.getLsbD (k - 8)) →
      (sched j)[4 * k + 1]? = some ⟨.high, if b then 1125 else 375⟩ ∧
      (sched j)[4 * k + 2]? = some ⟨.low, if b then 375 else 1125⟩ ∧
      (sched j)[4 * k + 3]? = some ⟨.high, 375⟩ ∧ (sched j)[4 * k + 4]? = some ⟨.low, 1125⟩)

/-- 41_transmit.md R157: the phases of an Advanced frame, sender and recipient most-significant bit first, each bit
followed by its inverse. -/
def Obligations.AdvancedScheduleContents : Prop :=
  ∀ j : Job, j.variant = .advanced →
    (sched j).length = 68 ∧ (sched j)[0]? = some ⟨.low, 10000⟩ ∧ (sched j)[1]? = some ⟨.high, 235⟩ ∧
    (sched j)[2]? = some ⟨.low, 2650⟩ ∧ (sched j)[67]? = some ⟨.high, 235⟩ ∧
    (∀ k b, (k < 26 ∧ b = j.sender.getLsbD (25 - k)) ∨ (k = 26 ∧ b = j.group) ∨
        (k = 27 ∧ b = j.command.getLsbD 0) ∨ (28 ≤ k ∧ k < 32 ∧ b = j.recipient.getLsbD (31 - k)) →
      (sched j)[3 + 2 * k]? = some ⟨.high, if b then 1180 else 275⟩ ∧
      (sched j)[4 + 2 * k]? = some ⟨.low, if b then 275 else 1180⟩)

/-- 41_transmit.md R158: the phases of a BBSB2011 frame, every field most-significant bit first, one pulse a bit, at
alternating levels from High, then the trailing 0. -/
def Obligations.BbsbScheduleContents : Prop :=
  ∀ j : Job, j.variant = .bbsb →
    (sched j).length = 26 ∧ (sched j)[0]? = some ⟨.low, 9000⟩ ∧ (sched j)[25]? = some ⟨.high, 300⟩ ∧
    (∀ k b, (k < 16 ∧ b = j.sender.getLsbD (15 - k)) ∨ (16 ≤ k ∧ k < 21 ∧ b = j.command.getLsbD (20 - k)) ∨
        (21 ≤ k ∧ k < 24 ∧ b = j.recipient.getLsbD (23 - k)) →
      (sched j)[1 + k]? = some ⟨if k % 2 = 0 then .high else .low, if b then 900 else 300⟩)

/-- One repeat lasts 46375 µs for Simple and 59680 µs for Advanced; for BBSB2011 it lasts 9000 + 300·z + 900·o µs with z
0 bits and o 1 bits (41_transmit.md 4). -/
def Obligations.RepeatDurations : Prop :=
  ∀ j : Job,
    (j.variant = .simple → ((sched j).map (·.duration)).sum = 46375) ∧
    (j.variant = .advanced → ((sched j).map (·.duration)).sum = 59680) ∧
    (j.variant = .bbsb →
      ((sched j).map (·.duration)).sum =
        9000 + 300 * ((List.range 25).map (bbsbBit j)).count false + 900 * ((List.range 25).map (bbsbBit j)).count true)

/-- HEADLINE. A job takes exactly `P_REPEAT` × N `TICK`s after its `SEND*`: they all run, the intervals they emit are the
rest of the schedule repeated `P_REPEAT` times, only the last one emits none and re-arms reception, and it leaves the
block in `LISTENING` with no job (41_transmit.md 4). -/
def Obligations.JobTakesRepeatTimesLengthTicks : Prop :=
  ∀ (i : Instr) (s t : State), isSend i = true → exec i s = .next t →
    ∃ outs u,
      trace (List.replicate (Config.pRepeat * (sched t.tx).length) .tick) t = some (outs, u) ∧
      t.out.interval :: outs.map (·.interval) =
        ((List.replicate Config.pRepeat (sched t.tx)).flatten.map fun p => some (BitVec.ofNat 32 p.duration)) ++ [none] ∧
      outs.map (·.rearm) = List.replicate (Config.pRepeat * (sched t.tx).length - 1) false ++ [true] ∧
      u = { s with
        mode := .listening, intsrc := .edgeCapture, line := .low, rx := idleDecoder, tx := noJob
        out := { rearm := true } }

/-- HEADLINE. The Simple round trip: the events of any number of repeats of a `SENDS` job, fed to a listening idle block,
give its message once a repeat and nothing else (41_transmit.md 4). -/
def Obligations.SimpleRoundTrip : Prop :=
  ∀ (snd rcp : BitVec 4) (on : Bool) (s t r : State) (k : Nat),
    exec (.sends snd rcp on) s = .next t → r.mode = .listening → r.rx = idleDecoder →
    ∃ outs u, trace (eventsOf k t.tx) r = some (outs, u) ∧ u.mode = .listening ∧ u.rx = idleDecoder ∧
      receives outs k (List.replicate 49 .progress ++ [.complete]) (.simple snd rcp on) r.hslotSimple

/-- HEADLINE. The Advanced round trip; the stop pulse is ignored (41_transmit.md 4). -/
def Obligations.AdvancedRoundTrip : Prop :=
  ∀ (snd : BitVec 26) (rcp : BitVec 4) (cmd grp : Bool) (s t r : State) (k : Nat),
    exec (.senda snd rcp cmd grp) s = .next t → r.mode = .listening → r.rx = idleDecoder →
    ∃ outs u, trace (eventsOf k t.tx) r = some (outs, u) ∧ u.mode = .listening ∧ u.rx = idleDecoder ∧
      receives outs k (List.replicate 66 .progress ++ [.complete, .ignored]) (.advanced snd rcp cmd grp)
        r.hslotAdvanced

/-- HEADLINE. The BBSB2011 round trip: the sender and the command come back, the recipient and the group as the two
transforms compose (41_transmit.md 4). -/
def Obligations.BbsbRoundTrip : Prop :=
  ∀ (snd : BitVec 16) (rcp : BitVec 3) (on grp : Bool) (s t r : State) (k : Nat),
    exec (.sendb snd rcp on grp) s = .next t → r.mode = .listening → r.rx = idleDecoder →
    ∃ outs u, trace (eventsOf k t.tx) r = some (outs, u) ∧ u.mode = .listening ∧ u.rx = idleDecoder ∧
      receives outs k (List.replicate 25 .progress ++ [.complete])
        (.bbsb2011 snd (BitVec.ofNat 3 (remapFormula (sendFormula rcp.toNat grp))) on
          (decide (remapFormula (sendFormula rcp.toNat grp) = 1))) r.hslotBbsb

/-! ## INIT, REG*, modes -/

/-- 42_control.md R190: `INIT`, from every mode: the job and any partial frame are gone, reception is armed, the handler
slots stay. -/
def Obligations.InitArmsReception : Prop :=
  ∀ s : State,
    exec .init s =
      .next
        { s with
          mode := .listening, intsrc := .edgeCapture, line := .low, rx := idleDecoder, tx := noJob, out := {} }

/-- 42_control.md R191 to R193: `REGS`, `REGA` and `REGB` write one handler slot each, in every mode, and disturb nothing. -/
def Obligations.HandlerRegistration : Prop :=
  ∀ (s : State) (present : Bool),
    exec (.regs present) s = .next { s with hslotSimple := present, out := {} } ∧
    exec (.rega present) s = .next { s with hslotAdvanced := present, out := {} } ∧
    exec (.regb present) s = .next { s with hslotBbsb := present, out := {} }

/-- The mode table of 60_exceptions.md 3: which operations leave which mode, and for which. No operation returns the block
to `UNARMED`. -/
def Obligations.ModeTransitions : Prop :=
  ∀ (i : Instr) (s t : State), exec i s = .next t →
    modeAfter i s t.mode ∧ (t.mode = .unarmed → s.mode = .unarmed)

/-- The handler slots decide only whether a handler is called: two blocks that differ in their slots alone take the same
steps, and their outputs differ in `dispatched` alone (40_receive.md R130; 10_state.md R42 to R44). -/
def Obligations.HandlerSlotsDecideDispatchOnly : Prop :=
  ∀ (i : Instr) (s t : State) (a b c : Bool), isReg i = false → exec i s = .next t →
    ∃ d, exec i (withSlots a b c s) = .next (withSlots a b c { t with out := { t.out with dispatched := d } })
end

