-- ==== Sys2Proof/Laws/Decode.lean ====
section
/-! SUPPORT. The decoder by rows: a word of a row decodes to the row's operation (30_encoding.md R82 to R87), and nothing
else decodes. -/

open Sys2Proof

namespace Sys2Proof.Laws

/-- Two rows whose patterns differ where both masks look never share a word. -/
theorem hits_unique {a b : OpRow} {w : Word} (ha : a.hits w = true) (hab : a.pattern &&& b.mask ≠ b.pattern &&& a.mask) :
    b.hits w = false := by
  simp only [OpRow.hits, beq_iff_eq, beq_eq_false_iff_ne] at *
  rintro hb
  exact hab (by rw [← ha, ← hb, BitVec.and_assoc, BitVec.and_assoc, BitVec.and_comm a.mask])

/-- No two rows of the opcode table share a word (30_encoding.md R81). -/
theorem rows_disjoint : opcodeTable.Pairwise fun a b => a.pattern &&& b.mask ≠ b.pattern &&& a.mask := by decide

theorem decode_edge {w : Word} (h : rowEdge.hits w = true) :
    decode w = .ok (.edge (fieldAt w 0 32) (polarityOfBit (bitAt w 32))) := by simp only [decode, h, if_true]

/-! R83 to R87, row by row. -/

theorem decode_tick {w : Word} (h : rowTick.hits w = true) : decode w = .ok .tick := by
  simp [decode, h, hits_unique (b := rowEdge) h (by decide)]

theorem decode_init {w : Word} (h : rowInit.hits w = true) : decode w = .ok .init := by
  simp [decode, h, hits_unique (b := rowEdge) h (by decide), hits_unique (b := rowTick) h (by decide)]

theorem decode_regs {w : Word} (h : rowRegs.hits w = true) : decode w = .ok (.regs (bitAt w 0)) := by
  simp [decode, h, hits_unique (b := rowEdge) h (by decide), hits_unique (b := rowTick) h (by decide),
    hits_unique (b := rowInit) h (by decide)]

theorem decode_rega {w : Word} (h : rowRega.hits w = true) : decode w = .ok (.rega (bitAt w 0)) := by
  simp [decode, h, hits_unique (b := rowEdge) h (by decide), hits_unique (b := rowTick) h (by decide),
    hits_unique (b := rowInit) h (by decide), hits_unique (b := rowRegs) h (by decide)]

theorem decode_regb {w : Word} (h : rowRegb.hits w = true) : decode w = .ok (.regb (bitAt w 0)) := by
  simp [decode, h, hits_unique (b := rowEdge) h (by decide), hits_unique (b := rowTick) h (by decide),
    hits_unique (b := rowInit) h (by decide), hits_unique (b := rowRegs) h (by decide),
    hits_unique (b := rowRega) h (by decide)]

theorem decode_sends {w : Word} (h : rowSends.hits w = true) :
    decode w = .ok (.sends (fieldAt w 0 4) (fieldAt w 4 4) (bitAt w 8)) := by
  simp [decode, h, hits_unique (b := rowEdge) h (by decide), hits_unique (b := rowTick) h (by decide),
    hits_unique (b := rowInit) h (by decide), hits_unique (b := rowRegs) h (by decide),
    hits_unique (b := rowRega) h (by decide), hits_unique (b := rowRegb) h (by decide)]

theorem decode_senda {w : Word} (h : rowSenda.hits w = true) :
    decode w = .ok (.senda (fieldAt w 0 26) (fieldAt w 26 4) (bitAt w 30) (bitAt w 31)) := by
  simp [decode, h, hits_unique (b := rowEdge) h (by decide), hits_unique (b := rowTick) h (by decide),
    hits_unique (b := rowInit) h (by decide), hits_unique (b := rowRegs) h (by decide),
    hits_unique (b := rowRega) h (by decide), hits_unique (b := rowRegb) h (by decide),
    hits_unique (b := rowSends) h (by decide)]

theorem decode_sendb {w : Word} (h : rowSendb.hits w = true) :
    decode w = .ok (.sendb (fieldAt w 0 16) (fieldAt w 16 3) (bitAt w 19) (bitAt w 20)) := by
  simp [decode, h, hits_unique (b := rowEdge) h (by decide), hits_unique (b := rowTick) h (by decide),
    hits_unique (b := rowInit) h (by decide), hits_unique (b := rowRegs) h (by decide),
    hits_unique (b := rowRega) h (by decide), hits_unique (b := rowRegb) h (by decide),
    hits_unique (b := rowSends) h (by decide), hits_unique (b := rowSenda) h (by decide)]

/-- Everything a decoded word can be: of exactly one row, with that row's operation. -/
theorem decode_cases {w : Word} {i : Instr} (h : decode w = .ok i) :
    (rowEdge.hits w = true ∧ i = .edge (fieldAt w 0 32) (polarityOfBit (bitAt w 32))) ∨
    (rowTick.hits w = true ∧ i = .tick) ∨ (rowInit.hits w = true ∧ i = .init) ∨
    (rowRegs.hits w = true ∧ i = .regs (bitAt w 0)) ∨ (rowRega.hits w = true ∧ i = .rega (bitAt w 0)) ∨
    (rowRegb.hits w = true ∧ i = .regb (bitAt w 0)) ∨
    (rowSends.hits w = true ∧ i = .sends (fieldAt w 0 4) (fieldAt w 4 4) (bitAt w 8)) ∨
    (rowSenda.hits w = true ∧ i = .senda (fieldAt w 0 26) (fieldAt w 26 4) (bitAt w 30) (bitAt w 31)) ∨
    (rowSendb.hits w = true ∧ i = .sendb (fieldAt w 0 16) (fieldAt w 16 3) (bitAt w 19) (bitAt w 20)) := by
  unfold decode at h
  split at h
  · cases h; simp_all
  split at h
  · cases h; simp_all
  split at h
  · cases h; simp_all
  split at h
  · cases h; simp_all
  split at h
  · cases h; simp_all
  split at h
  · cases h; simp_all
  split at h
  · cases h; simp_all
  split at h
  · cases h; simp_all
  split at h
  · cases h; simp_all
  · cases h
end Sys2Proof.Laws
end

