-- ==== Sys2Proof/Laws/Operands.lean ====
section
/-! SUPPORT. What the operand readers answer: windows, shift-in, classifiers, the recipient tables, `P_REPEAT`. -/

namespace Sys2Proof

theorem Config.pRepeat_pos : 1 ≤ Config.pRepeat := by simp [Config.pRepeat]

theorem Config.pRepeat_le : Config.pRepeat ≤ 65535 := by
  have h := Config.repeatIndex.isLt
  simp only [Config.pRepeat]
  omega

namespace Machine

theorem inWindow_iff (w : Micros) (win : Window) :
    inWindow w win = true ↔ win.lo ≤ w.toNat ∧ w.toNat ≤ win.hi := by
  simp [inWindow]

theorem phaseLevel_edgeEnding (l : Level) : phaseLevel (edgeEnding l) = l := by cases l <;> rfl

theorem edgeEnding_phaseLevel (p : Polarity) : edgeEnding (phaseLevel p) = p := by cases p <;> rfl

/-- The windows of `simple_val` do not overlap, so its result says which window holds the width (40_receive.md R112). -/
theorem simpleVal_eq_some_true (w : Micros) (i : Int) :
    simpleVal w i = some true ↔ i % 2 = 0 ∧ 975 ≤ w.toNat ∧ w.toNat ≤ 1150 := by
  unfold simpleVal
  simp only [inWindow_iff, protocol]
  split
  · constructor
    · simp
    · omega
  · split <;> simp_all

theorem simpleVal_eq_some_false (w : Micros) (i : Int) :
    simpleVal w i = some false ↔ 280 ≤ w.toNat ∧ w.toNat ≤ 430 := by
  unfold simpleVal
  simp only [inWindow_iff, protocol]
  split
  · simp_all
  · split <;> simp_all

theorem advVal_eq_some_true (w : Micros) : advVal w = some true ↔ 1000 ≤ w.toNat ∧ w.toNat ≤ 1360 := by
  unfold advVal
  simp only [inWindow_iff, protocol]
  split
  · constructor
    · simp
    · omega
  · split <;> simp_all

theorem advVal_eq_some_false (w : Micros) : advVal w = some false ↔ 200 ≤ w.toNat ∧ w.toNat ≤ 365 := by
  unfold advVal
  simp only [inWindow_iff, protocol]
  split
  · simp_all
  · split <;> simp_all

theorem bbsbVal_eq_some_true (w : Micros) : bbsbVal w = some true ↔ 850 ≤ w.toNat ∧ w.toNat ≤ 950 := by
  unfold bbsbVal
  simp only [inWindow_iff, protocol]
  split
  · constructor
    · simp
    · omega
  · split <;> simp_all

theorem bbsbVal_eq_some_false (w : Micros) : bbsbVal w = some false ↔ 280 ≤ w.toNat ∧ w.toNat ≤ 340 := by
  unfold bbsbVal
  simp only [inWindow_iff, protocol]
  split
  · simp_all
  · split <;> simp_all

/-- The recipient table is the source's formula on every code above 1 (40_receive.md R125). -/
theorem bbsbRemap_odd : ∀ x : BitVec 3, 1 < x.toNat → x.toNat % 2 = 1 → (bbsbRemap x).toNat = 4 - x.toNat / 2 := by
  decide

theorem bbsbRemap_even : ∀ x : BitVec 3, 1 < x.toNat → x.toNat % 2 = 0 → (bbsbRemap x).toNat = 7 - x.toNat / 2 := by
  decide

theorem bbsbRemap_low : ∀ x : BitVec 3, x.toNat ≤ 1 → bbsbRemap x = 0 := by decide

/-- The send table is the source's formula, masked to 3 bits (41_transmit.md R154). -/
theorem bbsbSendCode_low : ∀ r : BitVec 3, r.toNat < 4 → (bbsbSendCode r false).toNat = (9 - 2 * r.toNat) % 8 := by
  decide

theorem bbsbSendCode_high : ∀ r : BitVec 3, 4 ≤ r.toNat → (bbsbSendCode r false).toNat = (14 - 2 * r.toNat) % 8 := by
  decide

theorem bbsbSendCode_group (r : BitVec 3) : bbsbSendCode r true = 1 := rfl

end Machine

end Sys2Proof
end

