-- ==== Sys2Proof/Laws/State.lean ====
section
/-! SUPPORT. One lemma per field per state update, each true by rfl, so that no later proof unfolds an update. -/

namespace Sys2Proof.Machine

@[simp] theorem label_mode (c : Label) (s : State) : (label c s).mode = s.mode := rfl
@[simp] theorem label_intsrc (c : Label) (s : State) : (label c s).intsrc = s.intsrc := rfl
@[simp] theorem label_line (c : Label) (s : State) : (label c s).line = s.line := rfl
@[simp] theorem label_rx (c : Label) (s : State) : (label c s).rx = s.rx := rfl
@[simp] theorem label_tx (c : Label) (s : State) : (label c s).tx = s.tx := rfl
@[simp] theorem label_hslotSimple (c : Label) (s : State) : (label c s).hslotSimple = s.hslotSimple := rfl
@[simp] theorem label_hslotAdvanced (c : Label) (s : State) : (label c s).hslotAdvanced = s.hslotAdvanced := rfl
@[simp] theorem label_hslotBbsb (c : Label) (s : State) : (label c s).hslotBbsb = s.hslotBbsb := rfl
@[simp] theorem label_ops (c : Label) (s : State) : (label c s).ops = s.ops := rfl
@[simp] theorem label_out (c : Label) (s : State) : (label c s).out = { outcome := c } := rfl

@[simp] theorem setRx_mode (rx : Decoder) (s : State) : (setRx rx s).mode = s.mode := rfl
@[simp] theorem setRx_intsrc (rx : Decoder) (s : State) : (setRx rx s).intsrc = s.intsrc := rfl
@[simp] theorem setRx_line (rx : Decoder) (s : State) : (setRx rx s).line = s.line := rfl
@[simp] theorem setRx_rx (rx : Decoder) (s : State) : (setRx rx s).rx = rx := rfl
@[simp] theorem setRx_tx (rx : Decoder) (s : State) : (setRx rx s).tx = s.tx := rfl
@[simp] theorem setRx_hslotSimple (rx : Decoder) (s : State) : (setRx rx s).hslotSimple = s.hslotSimple := rfl
@[simp] theorem setRx_hslotAdvanced (rx : Decoder) (s : State) : (setRx rx s).hslotAdvanced = s.hslotAdvanced := rfl
@[simp] theorem setRx_hslotBbsb (rx : Decoder) (s : State) : (setRx rx s).hslotBbsb = s.hslotBbsb := rfl
@[simp] theorem setRx_ops (rx : Decoder) (s : State) : (setRx rx s).ops = s.ops := rfl
@[simp] theorem setRx_out (rx : Decoder) (s : State) : (setRx rx s).out = s.out := rfl

@[simp] theorem setTx_mode (tx : Job) (s : State) : (setTx tx s).mode = s.mode := rfl
@[simp] theorem setTx_intsrc (tx : Job) (s : State) : (setTx tx s).intsrc = s.intsrc := rfl
@[simp] theorem setTx_line (tx : Job) (s : State) : (setTx tx s).line = s.line := rfl
@[simp] theorem setTx_rx (tx : Job) (s : State) : (setTx tx s).rx = s.rx := rfl
@[simp] theorem setTx_tx (tx : Job) (s : State) : (setTx tx s).tx = tx := rfl
@[simp] theorem setTx_hslotSimple (tx : Job) (s : State) : (setTx tx s).hslotSimple = s.hslotSimple := rfl
@[simp] theorem setTx_hslotAdvanced (tx : Job) (s : State) : (setTx tx s).hslotAdvanced = s.hslotAdvanced := rfl
@[simp] theorem setTx_hslotBbsb (tx : Job) (s : State) : (setTx tx s).hslotBbsb = s.hslotBbsb := rfl
@[simp] theorem setTx_ops (tx : Job) (s : State) : (setTx tx s).ops = s.ops := rfl
@[simp] theorem setTx_out (tx : Job) (s : State) : (setTx tx s).out = s.out := rfl

@[simp] theorem setLine_mode (l : Level) (s : State) : (setLine l s).mode = s.mode := rfl
@[simp] theorem setLine_intsrc (l : Level) (s : State) : (setLine l s).intsrc = s.intsrc := rfl
@[simp] theorem setLine_line (l : Level) (s : State) : (setLine l s).line = l := rfl
@[simp] theorem setLine_rx (l : Level) (s : State) : (setLine l s).rx = s.rx := rfl
@[simp] theorem setLine_tx (l : Level) (s : State) : (setLine l s).tx = s.tx := rfl
@[simp] theorem setLine_hslotSimple (l : Level) (s : State) : (setLine l s).hslotSimple = s.hslotSimple := rfl
@[simp] theorem setLine_hslotAdvanced (l : Level) (s : State) : (setLine l s).hslotAdvanced = s.hslotAdvanced := rfl
@[simp] theorem setLine_hslotBbsb (l : Level) (s : State) : (setLine l s).hslotBbsb = s.hslotBbsb := rfl
@[simp] theorem setLine_ops (l : Level) (s : State) : (setLine l s).ops = s.ops := rfl
@[simp] theorem setLine_out (l : Level) (s : State) : (setLine l s).out = s.out := rfl

@[simp] theorem totalReset_mode (s : State) : (totalReset s).mode = s.mode := rfl
@[simp] theorem totalReset_intsrc (s : State) : (totalReset s).intsrc = s.intsrc := rfl
@[simp] theorem totalReset_line (s : State) : (totalReset s).line = s.line := rfl
@[simp] theorem totalReset_rx (s : State) : (totalReset s).rx = Safety.idleDecoder := rfl
@[simp] theorem totalReset_tx (s : State) : (totalReset s).tx = s.tx := rfl
@[simp] theorem totalReset_hslotSimple (s : State) : (totalReset s).hslotSimple = s.hslotSimple := rfl
@[simp] theorem totalReset_hslotAdvanced (s : State) : (totalReset s).hslotAdvanced = s.hslotAdvanced := rfl
@[simp] theorem totalReset_hslotBbsb (s : State) : (totalReset s).hslotBbsb = s.hslotBbsb := rfl
@[simp] theorem totalReset_ops (s : State) : (totalReset s).ops = s.ops := rfl
@[simp] theorem totalReset_out (s : State) : (totalReset s).out = s.out := rfl

@[simp] theorem abort_mode (c : Label) (s : State) : (abort c s).mode = s.mode := rfl
@[simp] theorem abort_intsrc (c : Label) (s : State) : (abort c s).intsrc = s.intsrc := rfl
@[simp] theorem abort_line (c : Label) (s : State) : (abort c s).line = s.line := rfl
@[simp] theorem abort_rx (c : Label) (s : State) : (abort c s).rx = Safety.idleDecoder := rfl
@[simp] theorem abort_tx (c : Label) (s : State) : (abort c s).tx = s.tx := rfl
@[simp] theorem abort_hslotSimple (c : Label) (s : State) : (abort c s).hslotSimple = s.hslotSimple := rfl
@[simp] theorem abort_hslotAdvanced (c : Label) (s : State) : (abort c s).hslotAdvanced = s.hslotAdvanced := rfl
@[simp] theorem abort_hslotBbsb (c : Label) (s : State) : (abort c s).hslotBbsb = s.hslotBbsb := rfl
@[simp] theorem abort_ops (c : Label) (s : State) : (abort c s).ops = s.ops := rfl
@[simp] theorem abort_out (c : Label) (s : State) : (abort c s).out = { outcome := c } := rfl

@[simp] theorem clearJob_mode (s : State) : (clearJob s).mode = s.mode := rfl
@[simp] theorem clearJob_intsrc (s : State) : (clearJob s).intsrc = s.intsrc := rfl
@[simp] theorem clearJob_line (s : State) : (clearJob s).line = s.line := rfl
@[simp] theorem clearJob_rx (s : State) : (clearJob s).rx = s.rx := rfl
@[simp] theorem clearJob_tx (s : State) : (clearJob s).tx = Safety.noJob := rfl
@[simp] theorem clearJob_hslotSimple (s : State) : (clearJob s).hslotSimple = s.hslotSimple := rfl
@[simp] theorem clearJob_hslotAdvanced (s : State) : (clearJob s).hslotAdvanced = s.hslotAdvanced := rfl
@[simp] theorem clearJob_hslotBbsb (s : State) : (clearJob s).hslotBbsb = s.hslotBbsb := rfl
@[simp] theorem clearJob_ops (s : State) : (clearJob s).ops = s.ops := rfl
@[simp] theorem clearJob_out (s : State) : (clearJob s).out = s.out := rfl

@[simp] theorem emitMsg_mode (m : Message) (s : State) : (emitMsg m s).mode = s.mode := rfl
@[simp] theorem emitMsg_intsrc (m : Message) (s : State) : (emitMsg m s).intsrc = s.intsrc := rfl
@[simp] theorem emitMsg_line (m : Message) (s : State) : (emitMsg m s).line = s.line := rfl
@[simp] theorem emitMsg_rx (m : Message) (s : State) : (emitMsg m s).rx = s.rx := rfl
@[simp] theorem emitMsg_tx (m : Message) (s : State) : (emitMsg m s).tx = s.tx := rfl
@[simp] theorem emitMsg_hslotSimple (m : Message) (s : State) : (emitMsg m s).hslotSimple = s.hslotSimple := rfl
@[simp] theorem emitMsg_hslotAdvanced (m : Message) (s : State) : (emitMsg m s).hslotAdvanced = s.hslotAdvanced := rfl
@[simp] theorem emitMsg_hslotBbsb (m : Message) (s : State) : (emitMsg m s).hslotBbsb = s.hslotBbsb := rfl
@[simp] theorem emitMsg_ops (m : Message) (s : State) : (emitMsg m s).ops = s.ops := rfl
@[simp] theorem emitMsg_out (m : Message) (s : State) : (emitMsg m s).out = { s.out with msg := some m, dispatched := s.slot m.variant } := rfl

@[simp] theorem emitInterval_mode (d : Nat) (s : State) : (emitInterval d s).mode = s.mode := rfl
@[simp] theorem emitInterval_intsrc (d : Nat) (s : State) : (emitInterval d s).intsrc = s.intsrc := rfl
@[simp] theorem emitInterval_line (d : Nat) (s : State) : (emitInterval d s).line = s.line := rfl
@[simp] theorem emitInterval_rx (d : Nat) (s : State) : (emitInterval d s).rx = s.rx := rfl
@[simp] theorem emitInterval_tx (d : Nat) (s : State) : (emitInterval d s).tx = { s.tx with pulse := BitVec.ofNat 32 d } := rfl
@[simp] theorem emitInterval_hslotSimple (d : Nat) (s : State) : (emitInterval d s).hslotSimple = s.hslotSimple := rfl
@[simp] theorem emitInterval_hslotAdvanced (d : Nat) (s : State) : (emitInterval d s).hslotAdvanced = s.hslotAdvanced := rfl
@[simp] theorem emitInterval_hslotBbsb (d : Nat) (s : State) : (emitInterval d s).hslotBbsb = s.hslotBbsb := rfl
@[simp] theorem emitInterval_ops (d : Nat) (s : State) : (emitInterval d s).ops = s.ops := rfl
@[simp] theorem emitInterval_out (d : Nat) (s : State) : (emitInterval d s).out = { s.out with interval := some (BitVec.ofNat 32 d) } := rfl

@[simp] theorem toListening_mode (s : State) : (toListening s).mode = .listening := rfl
@[simp] theorem toListening_intsrc (s : State) : (toListening s).intsrc = .edgeCapture := rfl
@[simp] theorem toListening_line (s : State) : (toListening s).line = s.line := rfl
@[simp] theorem toListening_rx (s : State) : (toListening s).rx = s.rx := rfl
@[simp] theorem toListening_tx (s : State) : (toListening s).tx = s.tx := rfl
@[simp] theorem toListening_hslotSimple (s : State) : (toListening s).hslotSimple = s.hslotSimple := rfl
@[simp] theorem toListening_hslotAdvanced (s : State) : (toListening s).hslotAdvanced = s.hslotAdvanced := rfl
@[simp] theorem toListening_hslotBbsb (s : State) : (toListening s).hslotBbsb = s.hslotBbsb := rfl
@[simp] theorem toListening_ops (s : State) : (toListening s).ops = s.ops := rfl
@[simp] theorem toListening_out (s : State) : (toListening s).out = s.out := rfl

@[simp] theorem toSending_mode (s : State) : (toSending s).mode = .sending := rfl
@[simp] theorem toSending_intsrc (s : State) : (toSending s).intsrc = .periodicCompare := rfl
@[simp] theorem toSending_line (s : State) : (toSending s).line = s.line := rfl
@[simp] theorem toSending_rx (s : State) : (toSending s).rx = s.rx := rfl
@[simp] theorem toSending_tx (s : State) : (toSending s).tx = s.tx := rfl
@[simp] theorem toSending_hslotSimple (s : State) : (toSending s).hslotSimple = s.hslotSimple := rfl
@[simp] theorem toSending_hslotAdvanced (s : State) : (toSending s).hslotAdvanced = s.hslotAdvanced := rfl
@[simp] theorem toSending_hslotBbsb (s : State) : (toSending s).hslotBbsb = s.hslotBbsb := rfl
@[simp] theorem toSending_ops (s : State) : (toSending s).ops = s.ops := rfl
@[simp] theorem toSending_out (s : State) : (toSending s).out = s.out := rfl

@[simp] theorem deliver_mode (w : Word) (s : State) : (deliver w s).mode = s.mode := rfl
@[simp] theorem deliver_intsrc (w : Word) (s : State) : (deliver w s).intsrc = s.intsrc := rfl
@[simp] theorem deliver_line (w : Word) (s : State) : (deliver w s).line = s.line := rfl
@[simp] theorem deliver_rx (w : Word) (s : State) : (deliver w s).rx = s.rx := rfl
@[simp] theorem deliver_tx (w : Word) (s : State) : (deliver w s).tx = s.tx := rfl
@[simp] theorem deliver_hslotSimple (w : Word) (s : State) : (deliver w s).hslotSimple = s.hslotSimple := rfl
@[simp] theorem deliver_hslotAdvanced (w : Word) (s : State) : (deliver w s).hslotAdvanced = s.hslotAdvanced := rfl
@[simp] theorem deliver_hslotBbsb (w : Word) (s : State) : (deliver w s).hslotBbsb = s.hslotBbsb := rfl
@[simp] theorem deliver_ops (w : Word) (s : State) : (deliver w s).ops = w :: s.ops := rfl
@[simp] theorem deliver_out (w : Word) (s : State) : (deliver w s).out = s.out := rfl

end Sys2Proof.Machine
end

