-- ==== Sys2Proof/Laws/Ops.lean ====
section
/-! SUPPORT. One lemma per shared operation that says once everything it does, and one inversion lemma for the operation
that branches on the job (`tickWith`). -/

namespace Sys2Proof.Machine

theorem totalReset_eq (s : State) : totalReset s = { s with rx := Safety.idleDecoder } := rfl

theorem abort_eq (c : Label) (s : State) :
    abort c s = { s with rx := Safety.idleDecoder, out := { outcome := c } } := rfl

theorem clearJob_eq (s : State) : clearJob s = { s with tx := Safety.noJob } := rfl

/-- Everything `begin_send` does (41_transmit.md R150), the first phase left as the schedule gives it. -/
theorem beginSend_eq (var : Variant) (snd : BitVec 26) (rcp : BitVec 4) (cmd : BitVec 5) (grp : Bool) (s : State) :
    beginSend var snd rcp cmd grp s =
      (let j : Job :=
        { variant := var, sender := snd, recipient := rcp, command := cmd, group := grp, pos := 0, repeats := 0,
          pulse := s.tx.pulse }
       { s with
         mode := .sending, intsrc := .periodicCompare, line := (phaseAt j 0).level, rx := Safety.idleDecoder,
         tx := { j with pulse := BitVec.ofNat 32 (phaseAt j 0).duration },
         out := { interval := some (BitVec.ofNat 32 (phaseAt j 0).duration) } }) := rfl

/-- Everything `end_job` does (41_transmit.md R160). -/
theorem endJob_eq (s : State) :
    endJob s =
      { s with
        mode := .listening, intsrc := .edgeCapture, line := .low, rx := Safety.idleDecoder, tx := Safety.noJob,
        out := { rearm := true } } := rfl

/-- Everything a step to phase `n` does (41_transmit.md R159). -/
theorem advanceTo_eq (n : Nat) (rep : BitVec 16) (s : State) :
    advanceTo n rep s =
      (let j : Job := { s.tx with pos := BitVec.ofNat 8 n, repeats := rep }
       { s with
         line := (phaseAt j n).level, tx := { j with pulse := BitVec.ofNat 32 (phaseAt j n).duration },
         out := { interval := some (BitVec.ofNat 32 (phaseAt j n).duration) } }) := rfl

/-- Everything a `TICK` can do when it answers a next state. -/
theorem tickWith_next {p : Nat} {s t : State} (h : tickWith p s = .next t) :
    (s.mode ≠ .sending ∧ t = label .none s) ∨
    (s.mode = .sending ∧ s.tx.pos.toNat + 1 = schedLength s.tx.variant ∧ s.tx.repeats.toNat + 1 = p ∧ t = endJob s) ∨
    (s.mode = .sending ∧ s.tx.pos.toNat + 1 = schedLength s.tx.variant ∧ s.tx.repeats.toNat + 1 ≠ p ∧
      t = advanceTo 0 (s.tx.repeats + 1) s) ∨
    (s.mode = .sending ∧ s.tx.pos.toNat + 1 < schedLength s.tx.variant ∧
      t = advanceTo (s.tx.pos.toNat + 1) s.tx.repeats s) := by
  by_cases hm : s.mode = .sending
  · simp only [tickWith, hm, if_true] at h
    split at h
    · next hn =>
      split at h
      · next hp =>
        cases h
        exact .inr (.inl ⟨hm, hn, hp, rfl⟩)
      · next hp =>
        cases h
        exact .inr (.inr (.inl ⟨hm, hn, hp, rfl⟩))
    · split at h
      · next hn =>
        cases h
        exact .inr (.inr (.inr ⟨hm, hn, rfl⟩))
      · cases h
  · simp only [tickWith, hm, if_false] at h
    cases h
    exact .inl ⟨hm, rfl⟩

end Sys2Proof.Machine
end

