-- ==== Sys2Proof/Laws/PerInstr.lean ====
section
/-! SUPPORT. Statements about every operation as a term, one lemma per constructor. -/

namespace Sys2Proof.Laws

/-- A well-formed operation's assembler line: every operand fits its field (30_encoding.md R95). -/
def Fits.Statement (i : Instr) : Prop := (AsmLine.ofInstr i).wellFormed = true

theorem Fits.edge (width : Micros) (pol : Polarity) : Fits.Statement (.edge width pol) := by
  have := width.isLt
  simp [Statement, AsmLine.ofInstr, AsmLine.wellFormed, fits]
  omega

theorem Fits.tick : Fits.Statement .tick := rfl

theorem Fits.init : Fits.Statement .init := rfl

theorem Fits.regs (present : Bool) : Fits.Statement (.regs present) := by cases present <;> rfl

theorem Fits.rega (present : Bool) : Fits.Statement (.rega present) := by cases present <;> rfl

theorem Fits.regb (present : Bool) : Fits.Statement (.regb present) := by cases present <;> rfl

theorem Fits.sends (snd : BitVec 4) (rcp : BitVec 4) (on : Bool) : Fits.Statement (.sends snd rcp on) := by
  have := snd.isLt
  have := rcp.isLt
  cases on <;> simp [Statement, AsmLine.ofInstr, AsmLine.wellFormed, fits] <;> omega

theorem Fits.senda (snd : BitVec 26) (rcp : BitVec 4) (cmd grp : Bool) : Fits.Statement (.senda snd rcp cmd grp) := by
  have := snd.isLt
  have := rcp.isLt
  cases cmd <;> cases grp <;> simp [Statement, AsmLine.ofInstr, AsmLine.wellFormed, fits] <;> omega

theorem Fits.sendb (snd : BitVec 16) (rcp : BitVec 3) (on grp : Bool) : Fits.Statement (.sendb snd rcp on grp) := by
  have := snd.isLt
  have := rcp.isLt
  cases on <;> cases grp <;> simp [Statement, AsmLine.ofInstr, AsmLine.wellFormed, fits] <;> omega

end Sys2Proof.Laws
end

