-- ==== Sys2Proof/Laws/Receive.lean ====
section
/-! SUPPORT. The decoder's cases: what each leaves alone, and an inversion lemma for each that says everything it can do.
-/

namespace Sys2Proof.Machine

/-- Only the decoder registers and the outputs may differ. -/
def RxOnly (s t : State) : Prop :=
  t.mode = s.mode ∧ t.intsrc = s.intsrc ∧ t.line = s.line ∧ t.tx = s.tx ∧ t.hslotSimple = s.hslotSimple ∧
    t.hslotAdvanced = s.hslotAdvanced ∧ t.hslotBbsb = s.hslotBbsb ∧ t.ops = s.ops

theorem idleStep_rxOnly (w : Micros) (l : Level) (s : State) : RxOnly s (idleStep w l s) := by
  unfold idleStep
  split
  · simp [RxOnly]
  · split <;> simp [RxOnly]

theorem simpleComplete_rxOnly (s : State) : RxOnly s (simpleComplete s) := by
  unfold simpleComplete
  dsimp only
  split <;> simp [RxOnly]

theorem bbsbComplete_rxOnly (s : State) : RxOnly s (bbsbComplete s) := by
  unfold bbsbComplete
  dsimp only
  split <;> simp [RxOnly]

theorem advComplete_rxOnly (s : State) : RxOnly s (advComplete s) := by simp [advComplete, RxOnly]

/-- What a High half-symbol of a Simple frame can do (40_receive.md R116). -/
theorem simpleHalf_cases (w : Micros) (s : State) :
    (simpleVal w s.rx.count = none ∧ simpleHalf w s = abort .abortWindow s) ∨
    ∃ v, simpleVal w s.rx.count = some v ∧
      let rx := if s.rx.count % 2 = 1 then simpleCommit s.rx.count s.rx else s.rx
      let s' := setRx { rx with prevbit := v, bitcount := s.rx.bitcount + 1 } s
      (s.rx.count + 1 = 25 ∧ simpleHalf w s = simpleComplete s') ∨
      (s.rx.count + 1 ≠ 25 ∧ simpleHalf w s = label .progress s') := by
  cases h : simpleVal w s.rx.count with
  | none => exact .inl ⟨rfl, by simp only [simpleHalf, h]⟩
  | some v =>
    refine .inr ⟨v, rfl, ?_⟩
    by_cases hc : s.rx.count + 1 = 25 <;> simp [simpleHalf, h, hc, protocol]

theorem simpleHalf_rxOnly (w : Micros) (s : State) : RxOnly s (simpleHalf w s) := by
  obtain ⟨-, h⟩ | ⟨v, -, ⟨-, h⟩ | ⟨-, h⟩⟩ := simpleHalf_cases w s <;> rw [h]
  · simp [RxOnly]
  · exact simpleComplete_rxOnly _
  · simp [RxOnly]

theorem simpleStep_rxOnly (w : Micros) (l : Level) (s : State) : RxOnly s (simpleStep w l s) := by
  unfold simpleStep
  split
  · exact simpleHalf_rxOnly w s
  · split <;> simp [RxOnly]

theorem syncStep_rxOnly (w : Micros) (l : Level) (s : State) : RxOnly s (syncStep w l s) := by
  unfold syncStep
  split
  · simp [RxOnly]
  · split
    · exact simpleHalf_rxOnly w _
    · simp [RxOnly]

theorem latchStep_rxOnly (w : Micros) (l : Level) (s : State) : RxOnly s (latchStep w l s) := by
  unfold latchStep
  split <;> simp [RxOnly]

/-- What a half-symbol of an Advanced frame can do (40_receive.md R119, R120). -/
theorem advStep_cases (w : Micros) (s : State) :
    (advVal w = none ∧ advStep w s = abort .abortWindow s) ∨
    ∃ v, advVal w = some v ∧
      ((s.rx.count % 2 = 1 ∧ v = s.rx.prevbit ∧ advStep w s = abort .abortParity s) ∨
       (¬(s.rx.count % 2 = 1 ∧ v = s.rx.prevbit) ∧
        let rx := if s.rx.count % 2 = 1 then advCommit s.rx.count s.rx.prevbit s.rx else s.rx
        let s' := setRx { rx with prevbit := v, bitcount := s.rx.bitcount + 1 } s
        (s.rx.count + 1 = 64 ∧ advStep w s = advComplete s') ∨
        (s.rx.count + 1 ≠ 64 ∧ advStep w s = label .progress s'))) := by
  unfold advStep
  cases h : advVal w with
  | none => exact .inl ⟨rfl, rfl⟩
  | some v =>
    refine .inr ⟨v, rfl, ?_⟩
    by_cases hp : s.rx.count % 2 = 1 ∧ v = s.rx.prevbit
    · exact .inl ⟨hp.1, hp.2, by simp only [hp, and_self, if_true]⟩
    · refine .inr ⟨hp, ?_⟩
      by_cases hc : s.rx.count + 1 = 64 <;> simp [hc, hp, protocol]

theorem advStep_rxOnly (w : Micros) (s : State) : RxOnly s (advStep w s) := by
  obtain ⟨-, h⟩ | ⟨v, -, ⟨-, -, h⟩ | ⟨-, ⟨-, h⟩ | ⟨-, h⟩⟩⟩ := advStep_cases w s <;> rw [h]
  · simp [RxOnly]
  · simp [RxOnly]
  · exact advComplete_rxOnly _
  · simp [RxOnly]

/-- What a bit of a BBSB2011 frame can do (40_receive.md R123). -/
theorem bbsbStep_cases (w : Micros) (s : State) :
    (bbsbVal w = none ∧ bbsbStep w s = abort .abortWindow s) ∨
    ∃ v, bbsbVal w = some v ∧
      let s' := setRx { bbsbStore (s.rx.count + 1) v s.rx with stage := .inData, bitcount := s.rx.bitcount + 1 } s
      (s.rx.count + 1 = 25 ∧ bbsbStep w s = bbsbComplete s') ∨
      (s.rx.count + 1 ≠ 25 ∧ bbsbStep w s = label .progress s') := by
  unfold bbsbStep
  cases h : bbsbVal w with
  | none => exact .inl ⟨rfl, rfl⟩
  | some v =>
    refine .inr ⟨v, rfl, ?_⟩
    by_cases hc : s.rx.count + 1 = 25 <;> simp [hc, protocol]

theorem bbsbStep_rxOnly (w : Micros) (s : State) : RxOnly s (bbsbStep w s) := by
  obtain ⟨-, h⟩ | ⟨v, -, ⟨-, h⟩ | ⟨-, h⟩⟩ := bbsbStep_cases w s <;> rw [h]
  · simp [RxOnly]
  · exact bbsbComplete_rxOnly _
  · simp [RxOnly]

/-- The seven cases of the decoder (40_receive.md R110), each with what it answers. -/
theorem decodeEdge_next {w : Micros} {l : Level} {s t : State} (h : decodeEdge w l s = .next t) :
    (s.rx.stage = .idle ∧ s.rx.variant = .unknown ∧ t = idleStep w l s) ∨
    (s.rx.stage = .syncSeen ∧ s.rx.variant = .unknown ∧ t = syncStep w l s) ∨
    (s.rx.stage = .latchSeen ∧ s.rx.variant = .advanced ∧ t = latchStep w l s) ∨
    (s.rx.stage = .inData ∧ s.rx.variant = .simple ∧ t = simpleStep w l s) ∨
    (s.rx.stage = .inData ∧ s.rx.variant = .advanced ∧ t = advStep w s) ∨
    ((s.rx.stage = .syncSeen ∨ s.rx.stage = .inData) ∧ s.rx.variant = .bbsb ∧ t = bbsbStep w s) := by
  unfold decodeEdge at h
  split at h <;> simp_all

/-- An `EDGE` is ignored outside `LISTENING`, and decoded in it (40_receive.md R110, R131). -/
theorem execEdge_next {w : Micros} {p : Polarity} {s t : State} (h : execEdge w p s = .next t) :
    (s.mode ≠ .listening ∧ t = label .ignored s) ∨
    (s.mode = .listening ∧ decodeEdge w (phaseLevel p) s = .next t) := by
  unfold execEdge at h
  split at h
  · exact .inr ⟨‹_›, h⟩
  · cases h
    exact .inl ⟨‹_›, rfl⟩

theorem decodeEdge_rxOnly {w : Micros} {l : Level} {s t : State} (h : decodeEdge w l s = .next t) : RxOnly s t := by
  obtain ⟨-, -, rfl⟩ | ⟨-, -, rfl⟩ | ⟨-, -, rfl⟩ | ⟨-, -, rfl⟩ | ⟨-, -, rfl⟩ | ⟨-, -, rfl⟩ := decodeEdge_next h
  · exact idleStep_rxOnly w l s
  · exact syncStep_rxOnly w l s
  · exact latchStep_rxOnly w l s
  · exact simpleStep_rxOnly w l s
  · exact advStep_rxOnly w s
  · exact bbsbStep_rxOnly w s

/-! The frame in progress: a case ends at the idle decoder or stays in its stage and variant. -/

@[simp] theorem simpleComplete_rx (s : State) : (simpleComplete s).rx = Safety.idleDecoder := by
  unfold simpleComplete
  dsimp only
  split <;> rfl

@[simp] theorem bbsbComplete_rx (s : State) : (bbsbComplete s).rx = Safety.idleDecoder := by
  unfold bbsbComplete
  dsimp only
  split <;> rfl

@[simp] theorem advComplete_rx (s : State) : (advComplete s).rx = Safety.idleDecoder := rfl

theorem simpleCommit_case (i : Int) (rx : Decoder) :
    (simpleCommit i rx).stage = rx.stage ∧ (simpleCommit i rx).variant = rx.variant := by
  simp only [simpleCommit]
  split_ifs <;> simp

theorem advCommit_case (i : Int) (b : Bool) (rx : Decoder) :
    (advCommit i b rx).stage = rx.stage ∧ (advCommit i b rx).variant = rx.variant := by
  simp only [advCommit]
  split_ifs <;> simp

theorem bbsbStore_variant (n : Int) (v : Bool) (rx : Decoder) : (bbsbStore n v rx).variant = rx.variant := by
  simp only [bbsbStore]
  split_ifs <;> simp

theorem simpleHalf_rx (w : Micros) (s : State) :
    (simpleHalf w s).rx = Safety.idleDecoder ∨
    ((simpleHalf w s).rx.stage = s.rx.stage ∧ (simpleHalf w s).rx.variant = s.rx.variant) := by
  obtain ⟨-, h⟩ | ⟨v, -, ⟨-, h⟩ | ⟨-, h⟩⟩ := simpleHalf_cases w s <;> rw [h]
  · exact .inl rfl
  · exact .inl (simpleComplete_rx _)
  · right
    simp only [label_rx, setRx_rx]
    split <;> simp [simpleCommit_case]

theorem advStep_rx (w : Micros) (s : State) :
    (advStep w s).rx = Safety.idleDecoder ∨
    ((advStep w s).rx.stage = s.rx.stage ∧ (advStep w s).rx.variant = s.rx.variant) := by
  obtain ⟨-, h⟩ | ⟨v, -, ⟨-, -, h⟩ | ⟨-, ⟨-, h⟩ | ⟨-, h⟩⟩⟩ := advStep_cases w s <;> rw [h]
  · exact .inl rfl
  · exact .inl rfl
  · exact .inl rfl
  · right
    simp only [label_rx, setRx_rx]
    split <;> simp [advCommit_case]

theorem bbsbStep_rx (w : Micros) (s : State) :
    (bbsbStep w s).rx = Safety.idleDecoder ∨
    ((bbsbStep w s).rx.stage = .inData ∧ (bbsbStep w s).rx.variant = s.rx.variant) := by
  obtain ⟨-, h⟩ | ⟨v, -, ⟨-, h⟩ | ⟨-, h⟩⟩ := bbsbStep_cases w s <;> rw [h]
  · exact .inl rfl
  · exact .inl (bbsbComplete_rx _)
  · right
    simp [bbsbStore_variant]

/-- In the range a frame can have come, `RX_BITCOUNT` read as signed is its unsigned value (10_state.md R26). -/
theorem count_eq_of_toNat {rx : Decoder} {n : Nat} (h : rx.bitcount.toNat = n) (hn : n ≤ 64) : rx.count = n := by
  unfold Decoder.count
  rw [BitVec.toInt_eq_toNat_of_lt (by omega), h]

theorem bitcount_succ (b : BitVec 8) (n : Nat) (h : b.toNat = n) : b + 1 = BitVec.ofNat 8 (n + 1) := by
  subst h
  apply BitVec.eq_of_toNat_eq
  simp

end Sys2Proof.Machine
end

