-- ==== Sys2Proof/Laws/Schedule.lean ====
section
/-! SUPPORT. The schedules as lists, and traces. -/

namespace Sys2Proof.Machine

@[simp] theorem sched_length (j : Job) : (sched j).length = schedLength j.variant := by simp [sched]

theorem sched_get (j : Job) (p : Nat) (h : p < schedLength j.variant) : (sched j)[p]? = some (phaseAt j p) := by
  simp [sched, h]

theorem sched_get_eq_some {j : Job} {p : Nat} {ph : Phase} :
    (sched j)[p]? = some ph ↔ p < schedLength j.variant ∧ phaseAt j p = ph := by
  by_cases h : p < schedLength j.variant <;> simp [sched, h]

/-- A schedule is a function of the job's fields alone, not of its position, its repeats or its pulse (10_state.md R49;
41_transmit.md R155). -/
theorem phaseAt_place (j : Job) (p : Nat) (pos : BitVec 8) (rep : BitVec 16) (pulse : Micros) :
    phaseAt { j with pos := pos, repeats := rep, pulse := pulse } p = phaseAt j p := by
  cases h : j.variant <;> simp only [phaseAt, h] <;> rfl

theorem trace_append {is js : List Instr} {s t u : State} {os ps : List Output}
    (h : trace is s = some (os, t)) (h' : trace js t = some (ps, u)) : trace (is ++ js) s = some (os ++ ps, u) := by
  induction is generalizing s os with
  | nil =>
    simp only [trace, Option.some.injEq, Prod.mk.injEq] at h
    obtain ⟨rfl, rfl⟩ := h
    simpa using h'
  | cons i is ih =>
    simp only [trace, List.cons_append] at h ⊢
    cases he : exec i s with
    | next a =>
      simp only [he] at h ⊢
      cases ht : trace is a with
      | none => simp [ht] at h
      | some q =>
        obtain ⟨qs, b⟩ := q
        simp only [ht, Option.some.injEq, Prod.mk.injEq] at h
        obtain ⟨rfl, rfl⟩ := h
        simp [ih ht]
    | fault r => simp [he] at h
    | refused r => simp [he] at h

theorem trace_cons {i : Instr} {is : List Instr} {s t u : State} {os : List Output}
    (h : exec i s = .next t) (h' : trace is t = some (os, u)) : trace (i :: is) s = some (t.out :: os, u) := by
  simp [trace, h, h']

end Sys2Proof.Machine
end

