-- ==== Sys2Proof/Tests/Slice0.lean ====
section
/-! SUPPORT. Tests. Every expected value is taken from spec/95_test_vectors.md (the name says which vector) or worked out
by hand from the rule cited. The second half shows, for each statement with hypotheses, states and operands that meet all
of them together, at the boundary values of each clause. -/

open Sys2Proof Sys2Proof.Machine Sys2Proof.Safety Sys2Proof.Claims

namespace Sys2Proof.Tests

/-! ## Well-formed lines (30_encoding.md R95): each check refuses a line -/

theorem test_wf_edge_width : (AsmLine.edge (2 ^ 32) .rising).wellFormed = false := by decide
theorem test_wf_phase_width : (AsmLine.phase .low (2 ^ 32)).wellFormed = false := by decide
theorem test_wf_regs_present : (AsmLine.regs 2).wellFormed = false := by decide
theorem test_wf_rega_present : (AsmLine.rega 2).wellFormed = false := by decide
theorem test_wf_regb_present : (AsmLine.regb 2).wellFormed = false := by decide
theorem test_wf_sends_snd : (AsmLine.sends 16 0 0).wellFormed = false := by decide
theorem test_wf_sends_rcp : (AsmLine.sends 0 16 0).wellFormed = false := by decide
theorem test_wf_sends_on : (AsmLine.sends 0 0 2).wellFormed = false := by decide
theorem test_wf_senda_snd : (AsmLine.senda (2 ^ 26) 0 0 0).wellFormed = false := by decide
theorem test_wf_senda_rcp : (AsmLine.senda 0 16 0 0).wellFormed = false := by decide
theorem test_wf_senda_cmd : (AsmLine.senda 0 0 2 0).wellFormed = false := by decide
theorem test_wf_senda_grp : (AsmLine.senda 0 0 0 2).wellFormed = false := by decide
theorem test_wf_sendb_snd : (AsmLine.sendb 65536 0 0 0).wellFormed = false := by decide
theorem test_wf_sendb_rcp : (AsmLine.sendb 0 8 0 0).wellFormed = false := by decide
theorem test_wf_sendb_on : (AsmLine.sendb 0 0 2 0).wellFormed = false := by decide
theorem test_wf_sendb_grp : (AsmLine.sendb 0 0 0 2).wellFormed = false := by decide
theorem test_wf_largest_fit :
    (AsmLine.edge 4294967295 .rising).wellFormed ∧ (AsmLine.senda 0x3FFFFFF 15 1 1).wellFormed ∧
      (AsmLine.sendb 65535 7 1 1).wellFormed ∧ AsmLine.tick.wellFormed ∧ AsmLine.init.wellFormed := by decide

/-! ## Words of 95_test_vectors.md 2.1 and 30_encoding.md R82 to R87 -/

theorem test_decode_edge_r : decodeTableWord 64 0x1000000100002710 = some (.edge 10000 .rising) := by decide
theorem test_decode_edge_f : decodeTableWord 64 0x1000000000002710 = some (.edge 10000 .falling) := by decide
theorem test_decode_edge_max : decodeTableWord 64 0x10000001FFFFFFFF = some (.edge 4294967295 .rising) := by decide
theorem test_decode_tick : decodeTableWord 64 0x2000000000000000 = some .tick := by decide
theorem test_decode_init : decodeTableWord 64 0x3000000000000000 = some .init := by decide
theorem test_decode_regs : decodeTableWord 64 0x4000000000000001 = some (.regs true) := by decide
theorem test_decode_rega : decodeTableWord 64 0x5000000000000000 = some (.rega false) := by decide
theorem test_decode_regb : decodeTableWord 64 0x6000000000000001 = some (.regb true) := by decide
theorem test_decode_sends : decodeTableWord 64 0x70000000000001A5 = some (.sends 5 10 true) := by decide
theorem test_decode_sends_off : decodeTableWord 64 0x70000000000000FF = some (.sends 15 15 false) := by decide
theorem test_decode_senda : decodeTableWord 64 0x800000004C012345 = some (.senda 0x12345 3 true false) := by decide
theorem test_decode_senda_max : decodeTableWord 64 0x80000000FFFFFFFF = some (.senda 0x3FFFFFF 15 true true) := by decide
theorem test_decode_sendb : decodeTableWord 64 0x90000000000B00FF = some (.sendb 255 3 true false) := by decide
theorem test_decode_sendb_max : decodeTableWord 64 0x90000000001FFFFF = some (.sendb 65535 7 true true) := by decide

theorem test_encode_sends : encode (.sends 5 10 true) = 0x70000000000001A5 := by decide
theorem test_encode_senda : encode (.senda 0x12345 3 true false) = 0x800000004C012345 := by decide
theorem test_encode_sendb : encode (.sendb 255 3 true false) = 0x90000000000B00FF := by decide

/-- What the decoder says of a word it refuses. -/
def refusedAs (w : Word) : Option DecodeError :=
  match decode w with
  | .ok _ => none
  | .error e => some e

theorem test_refused_op_0 : refusedAs 0x0000000000000000 = some .reservedOpcode := by decide
theorem test_refused_op_a : refusedAs 0xA000000000000000 = some .reservedOpcode := by decide
theorem test_refused_op_f : refusedAs 0xF000000000000000 = some .reservedOpcode := by decide
theorem test_refused_edge : refusedAs 0x1000000200000000 = some .reservedBits := by decide
theorem test_refused_tick : refusedAs 0x2000000000000001 = some .reservedBits := by decide
theorem test_refused_init : refusedAs 0x3800000000000000 = some .reservedBits := by decide
theorem test_refused_regs : refusedAs 0x4000000000000002 = some .reservedBits := by decide
theorem test_refused_sends : refusedAs 0x7000000000000200 = some .reservedBits := by decide
theorem test_refused_senda : refusedAs 0x8000000100000000 = some .reservedBits := by decide
theorem test_refused_sendb : refusedAs 0x9000000000200000 = some .reservedBits := by decide

/-! ## Assembler text (R95, R96) -/

theorem test_asm_edge : assembleText "EDGE 10000, R".toList = some 0x1000000100002710 := by decide
theorem test_asm_phase : assembleText "PHASE L, 10000".toList = some 0x1000000100002710 := by decide
theorem test_asm_senda : assembleText "SENDA 0x12345, 3, 1, 0".toList = some 0x800000004C012345 := by decide
theorem test_asm_binary : assembleText "SENDB 255, 0b011, 1, 0".toList = some 0x90000000000B00FF := by decide
theorem test_asm_not_truncated : assembleText "REGS 2".toList = none := by decide

/-! ## Small states and results -/

/-- A listening block in the middle of a frame. -/
def listening (st : Stage) (v : Variant) (n : BitVec 8) (snd : BitVec 26) (rcp : BitVec 4) (cmd : BitVec 5)
    (grp prev : Bool) : State :=
  { State.reset with
    mode := .listening, intsrc := .edgeCapture
    rx :=
      { stage := st, variant := v, bitcount := n, sender := snd, recipient := rcp, command := cmd, group := grp,
        prevbit := prev } }

/-- The state an operation answers. -/
def after (i : Instr) (s : State) : Option State :=
  match exec i s with
  | .next t => some t
  | .fault _ => none
  | .refused _ => none

/-- The decoder registers and the outputs an operation answers. -/
def rxAfter (i : Instr) (s : State) : Option (Decoder × Output) := (after i s).map fun t => (t.rx, t.out)

/-- The state after `SENDS 5, 10, 1` from reset. -/
def sent : State := beginSend .simple 5 10 14 false State.reset

/-- A Simple job in its last phase, in the repeat number `rep` (from 0). -/
def atLastPhase (rep : Nat) : State := { sent with tx := { sent.tx with pos := 49, repeats := BitVec.ofNat 16 rep } }

/-! ## `EDGE` -/

/-- V27: an odd index commits the previous value 1: sender 8. -/
theorem test_edge_simple_commit :
    rxAfter (.edge 280 .falling) (listening .inData .simple 1 0 0 0 false true) =
      some
        ({ stage := .inData, variant := .simple, bitcount := 2, sender := 8, recipient := 0, command := 0,
           group := false, prevbit := false }, { outcome := .progress }) := by decide

/-- V47: the pair (0, 0) is a parity violation. -/
theorem test_edge_parity :
    rxAfter (.edge 275 .rising) (listening .inData .advanced 1 0 0 0 false false) =
      some (idleDecoder, { outcome := .abortParity }) := by decide

/-! ## `TICK`, with a repeat count of 1 (X10, X17) -/

theorem test_tick_next_phase :
    (match tickWith 1 sent with | .next t => some (t.line, t.tx.pos, t.tx.pulse, t.out.interval) | _ => none) =
      some (.high, 1, 1125, some 1125) := by decide

theorem test_tick_ends_job :
    (match tickWith 1 (atLastPhase 0) with | .next t => some (t.mode, t.tx, t.line, t.out) | _ => none) =
      some (.listening, noJob, .low, { rearm := true }) := by decide

/-! ## `INIT` (X8), `REG*` (X25, X26), `SEND*` (X9, X11, X14) -/

theorem test_init_drops_job :
    (after .init sent).map (fun t => (t.mode, t.intsrc, t.line, t.tx, t.out.rearm)) =
      some (.listening, .edgeCapture, .low, noJob, false) := by decide

theorem test_regs_keeps_frame :
    (after (.regs true) (listening .syncSeen .unknown 0 0 0 0 false false)).map (fun t => (t.hslotSimple, t.rx.stage)) =
      some (true, .syncSeen) := by decide

theorem test_rega_removes :
    (after (.rega false) { State.reset with hslotAdvanced := true }).map (fun t => (t.hslotAdvanced, t.hslotSimple)) =
      some (false, false) := by decide

theorem test_regb_sets :
    (after (.regb true) State.reset).map (fun t => (t.hslotBbsb, t.hslotAdvanced)) = some (true, false) := by decide

theorem test_sends_job :
    (after (.sends 5 10 true) State.reset).map (fun t => (t.tx.sender, t.tx.recipient, t.tx.command, t.out.interval)) =
      some (5, 10, 0xE, some 10000) := by decide

theorem test_senda_job :
    (after (.senda 0x12345 3 true false) State.reset).map
      (fun t => (t.tx.sender, t.tx.recipient, t.tx.command, t.tx.group, t.tx.pulse)) =
      some (0x12345, 3, 1, false, 10000) := by decide

theorem test_sendb_job :
    (after (.sendb 0 0 false false) State.reset).map (fun t => (t.tx.recipient, t.tx.command, t.out.interval)) =
      some (1, 0x14, some 9000) := by decide

/-- X13: a group request sends the recipient code 1, and `TX_GROUP` stays 0. -/
theorem test_sendb_group :
    (after (.sendb 255 3 true true) State.reset).map (fun t => (t.tx.recipient, t.tx.command, t.tx.group)) =
      some (1, 0x15, false) := by decide

/-! ## Steps -/

theorem test_step_fetch_word :
    (match step (State.reset.withFetchWord 64 0x3000000000000000) with | .next t => some (t.mode, t.ops) | _ => none) =
      some (.listening, []) := by decide

theorem test_step_refused : step (State.reset.withFetchWord 64 0xA000000000000000) = .refused .reservedOpcode := rfl

/-! ## Witnesses: words and steps -/

/-- `DecodeOfEncode`, `EncodeOfDecode`, `ReservedWordsRefused`: one word per clause, at the edges of the op ranges. -/
theorem witness_reserved_words :
    (0x0FFFFFFFFFFFFFFF#64).toNat / 2 ^ 60 = 0 ∧ 10 ≤ (0xA000000000000000#64).toNat / 2 ^ 60 ∧
    (1 ≤ (0x1000000200000000#64).toNat / 2 ^ 60 ∧ (0x1000000200000000#64) &&& reservedMask 1 ≠ 0) ∧
    ((0x90000000001FFFFF#64).toNat / 2 ^ 60 ≤ 9 ∧ (0x90000000001FFFFF#64) &&& reservedMask 9 = 0) := by decide

theorem witness_reserved_bits_step :
    step { State.reset with ops := [0x4000000000000002, 0] } = .refused .reservedBits := rfl

theorem witness_ill_formed_line : ∃ l : AsmLine, l.wellFormed = false ∧ assemble l = none := ⟨.regs 2, by decide⟩

theorem witness_well_formed_phase : ∃ l : AsmLine, l.wellFormed = true ∧ assemble l = some (.edge 275 .falling) :=
  ⟨.phase .high 275, by decide⟩

/-- `StepRunsDecodedOperation`, `StepTakesOneWordInOrder`. -/
theorem witness_step_runs :
    ∃ s t w rest i, s.ops = w :: rest ∧ decode w = .ok i ∧ step s = .next t ∧ rest ≠ [] :=
  ⟨{ State.reset with ops := [0x4000000000000001, 0x3000000000000000] }, _, _, _, .regs true, rfl, rfl, rfl,
    by decide⟩

theorem witness_exhausted : step State.reset = .fault .streamExhausted := rfl

theorem witness_trace : ∃ outs u, trace [.init, .edge 10000 .rising] State.reset = some (outs, u) ∧ u.rx.stage = .syncSeen :=
  ⟨_, _, rfl, rfl⟩

/-! ## Witnesses: the invariant -/

/-- A listening state with a legal decoder and nothing else going on. -/
theorem inv_listening {rx : Decoder} (out : Output) (a b c : Bool) (ops : List Word)
    (hp : legalPair rx) (hi : rx.stage = .idle → rx = idleDecoder) (hc : countInRange rx) (hf : fieldsInUse rx) :
    Inv
      { State.reset with
        mode := .listening, intsrc := .edgeCapture, rx := rx, out := out, hslotSimple := a, hslotAdvanced := b,
        hslotBbsb := c, ops := ops } where
  source := .inr (.inl ⟨rfl, rfl⟩)
  pair := hp
  idle := hi
  decoderAtRest := by simp
  noJobAtRest := fun _ => rfl
  lineAtRest := fun _ => rfl
  count := hc
  fields := hf
  job := by simp
  place := by simp
  phase := by simp

/-- The last half-symbol of a Simple frame: sender 5, recipient 10, command 14 (P1, before step 52). -/
def lastSimple : State := listening .inData .simple 24 5 10 14 false false
/-- The last half-symbol of an Advanced frame. -/
def lastAdvanced : State := listening .inData .advanced 63 0x3FFFFFF 7 1 true true
/-- The trailing bit of a BBSB2011 frame, the first 24 bits stored (P2). -/
def lastBbsb : State := listening .inData .bbsb 24 0xFF 3 0x15 false false

theorem lastSimple_count : countInRange lastSimple.rx :=
  (by decide : 1 ≤ lastSimple.rx.bitcount.toNat ∧ lastSimple.rx.bitcount.toNat ≤ 24)

theorem lastSimple_fields : fieldsInUse lastSimple.rx :=
  (by decide : lastSimple.rx.sender.toNat < 16 ∧ lastSimple.rx.command.toNat < 16 ∧ lastSimple.rx.group = false)

theorem witness_inv_simple : Inv lastSimple :=
  inv_listening _ _ _ _ _ (by decide) (by decide) lastSimple_count lastSimple_fields

theorem witness_inv_advanced : Inv lastAdvanced :=
  inv_listening _ _ _ _ _ (by decide) (by decide) (by decide : lastAdvanced.rx.bitcount.toNat ≤ 63)
    (by decide : lastAdvanced.rx.command.toNat < 2)

theorem witness_inv_bbsb : Inv lastBbsb :=
  inv_listening _ _ _ _ _ (by decide) (by decide)
    (by decide : 1 ≤ lastBbsb.rx.bitcount.toNat ∧ lastBbsb.rx.bitcount.toNat ≤ 24)
    (by decide : lastBbsb.rx.sender.toNat < 65536 ∧ lastBbsb.rx.recipient.toNat < 8 ∧ lastBbsb.rx.group = false ∧
      lastBbsb.rx.prevbit = false)

theorem witness_inv_sending : Inv sent where
  source := by decide
  pair := by decide
  idle := by decide
  decoderAtRest := fun _ => rfl
  noJobAtRest := by decide
  lineAtRest := by decide
  count := (by decide : sent.rx.bitcount = 0)
  fields := (by decide : sent.rx.sender = 0 ∧ sent.rx.recipient = 0 ∧ sent.rx.command = 0 ∧ sent.rx.group = false ∧
    sent.rx.prevbit = false)
  job := fun _ =>
    (by decide : sent.tx.sender.toNat < 16 ∧ (sent.tx.command = 14 ∨ sent.tx.command = 6) ∧ sent.tx.group = false)
  place := fun _ => ⟨by decide, Nat.succ_pos _⟩
  phase := fun _ => by decide

/-- `StepKeepsInvariant`: a step of a frame in progress, with the invariant before it. -/
theorem witness_step_with_inv :
    ∃ s t, Inv s ∧ step s = .next t ∧ s.rx.stage = .inData :=
  ⟨{ lastSimple with ops := [0x1000000000000177] }, _,
    inv_listening _ _ _ _ _ (by decide) (by decide) lastSimple_count lastSimple_fields, rfl, rfl⟩

/-- `MessageOnlyAtTerminalCount`, `DispatchFollowsHandlerSlot`: each variant completes with a message. -/
theorem witness_messages :
    (rxAfter (.edge 375 .falling) lastSimple = some (idleDecoder, { outcome := .complete, msg := some (.simple 5 10 true) })) ∧
    (rxAfter (.edge 275 .rising) { lastAdvanced with hslotAdvanced := true } =
      some
        (idleDecoder,
         { outcome := .complete, msg := some (.advanced 0x3FFFFFF 15 true true), dispatched := true })) ∧
    (rxAfter (.edge 300 .falling) lastBbsb =
      some (idleDecoder, { outcome := .complete, msg := some (.bbsb2011 255 3 true false) })) := by decide

/-! ## Witnesses: frames and modes -/

/-- `RegistersChangeOnlyByTheirWriters`, `OtherOperationsOutputs`, `ModeTransitions`. -/
theorem witness_frame : ∃ i r t, exec i sent = .next t ∧ writes i r = false ∧ isEdge i = false ∧ sent.read r ≠ 0 :=
  ⟨.rega true, .mode, _, rfl, rfl, rfl, by decide⟩

/-- `EdgeWritesDecoderRegistersOnly`. -/
theorem witness_edge_frame : ∃ t, exec (.edge 10000 .rising) sent = .next t ∧ Reg.txPulse ∉ rxRegs ∧ sent.tx.pulse ≠ 0 :=
  ⟨_, rfl, by decide, by decide⟩

/-- `ModeAndSourceStayPaired`: both answers of the equivalence. -/
theorem witness_pair :
    modeSource State.reset ∧ (∃ t, exec .init State.reset = .next t ∧ t.mode ≠ State.reset.mode) ∧
      (∃ t, exec (.regs true) State.reset = .next t ∧ t.mode = State.reset.mode) :=
  ⟨by decide, ⟨_, rfl, by decide⟩, ⟨_, rfl, rfl⟩⟩

/-- `IdleStageMeansClearDecoder`. -/
theorem witness_idle :
    ∃ t, (lastSimple.rx.stage = .idle → lastSimple.rx = idleDecoder) ∧
      exec (.edge 0 .falling) lastSimple = .next t ∧ t.rx.stage = .idle := ⟨_, by decide, rfl, rfl⟩

/-- `VariantFixedDuringFrame`: a total reset and the three choices of the synchronizer. -/
theorem witness_variant_changes :
    ((rxAfter .init lastSimple).map (·.1.variant) = some .unknown) ∧
    ((rxAfter (.edge 9000 .rising) (listening .idle .unknown 0 0 0 0 false false)).map (·.1.variant) = some .bbsb) ∧
    ((rxAfter (.edge 235 .falling) (listening .syncSeen .unknown 0 0 0 0 false false)).map (·.1.variant) =
      some .advanced) ∧
    ((rxAfter (.edge 375 .falling) (listening .syncSeen .unknown 0 0 0 0 false false)).map (·.1.variant) =
      some .simple) := by decide

/-- `ShiftInPrimitives` at widths 1 and 4 (00_scope.md R16). -/
theorem witness_shift :
    (shlIn (1#1) false).toNat = 0 ∧ (shrIn (1#1) true).toNat = 1 ∧ (shlIn (0x9#4) true).toNat = 3 ∧
      (shrIn (0x0#4) true).toNat = 8 := by decide

/-! ## Witnesses: `EDGE`, each clause at the boundary of its range -/

theorem witness_edge_ignored : ∃ s : State, s.mode ≠ .listening := ⟨sent, by decide⟩

theorem witness_preamble :
    inCase (listening .idle .unknown 0 0 0 0 false false) .idle .unknown ∧
    (within 9480 9480 11500 ∧ ¬within 9480 8500 9479) ∧ within 11500 9480 11500 ∧
    (within 9479 8500 9479 ∧ ¬within 9479 9480 11500) ∧ within 8500 8500 9479 ∧
    ((8499#32).toNat < 8500 ∧ 11500 < (11501#32).toNat) := by decide

theorem witness_after_preamble :
    inCase (listening .syncSeen .unknown 0 0 0 0 false false) .syncSeen .unknown ∧
    within 200 200 350 ∧ within 350 200 350 ∧
    (¬within 351 200 350 ∧ simpleReads 351 0 false) ∧ simpleReads 430 0 false ∧
    (¬within 975 200 350 ∧ simpleReads 975 0 true) ∧ simpleReads 1150 0 true := by decide

theorem witness_after_preamble_abort :
    (¬within 431 200 350 ∧ ∀ v, ¬simpleReads 431 0 v) ∧ (¬within 199 200 350 ∧ ∀ v, ¬simpleReads 199 0 v) := by decide

theorem witness_latch :
    inCase (listening .latchSeen .advanced 0 0 0 0 false false) .latchSeen .advanced ∧ within 2350 2350 2750 ∧
      within 2750 2350 2750 ∧ ¬within 2349 2350 2750 ∧ ¬within 2751 2350 2750 := by decide

theorem witness_gap :
    inCase lastSimple .inData .simple ∧ within 280 280 430 ∧ within 430 280 430 ∧ within 975 975 1150 ∧
      within 1150 975 1150 ∧ ¬(within 431 280 430 ∨ within 431 975 1150) ∧ ¬(within 279 280 430 ∨ within 279 975 1150) :=
  by decide

/-- The clauses of `SimpleHalfSymbol`: the first, an odd, and the last index; a 1 is invalid at an odd index. -/
theorem witness_simple_half :
    inCase lastSimple .inData .simple ∧ lastSimple.rx.bitcount.toNat = 24 ∧
    simpleReads 1150 24 true ∧ simpleReads 280 23 false ∧ (∀ v, ¬simpleReads 975 23 v) ∧ (∀ v, ¬simpleReads 974 24 v) ∧
    (listening .inData .simple 1 0 0 0 false true).rx.bitcount.toNat = 1 ∧ simpleReads 430 1 false := by decide

/-- A Simple frame of another command completes silently (F3, F4). -/
theorem witness_simple_silent :
    (rxAfter (.edge 375 .falling) (listening .inData .simple 24 3 3 15 false false) =
      some (idleDecoder, { outcome := .completeSilent })) ∧
    (rxAfter (.edge 375 .falling) (listening .inData .simple 24 5 10 0 false false) =
      some (idleDecoder, { outcome := .completeSilent })) := by decide

/-- The clauses of `AdvancedHalfSymbol`: index 0, an odd index with each parity, index 63. -/
theorem witness_advanced_half :
    inCase lastAdvanced .inData .advanced ∧ lastAdvanced.rx.bitcount.toNat = 63 ∧
    (advReads 365 false ∧ false ≠ lastAdvanced.rx.prevbit) ∧ (advReads 1000 true ∧ true = lastAdvanced.rx.prevbit) ∧
    (advReads 200 false ∧ advReads 1360 true) ∧ (∀ v, ¬advReads 366 v) ∧ (∀ v, ¬advReads 1361 v) ∧
    ((listening .inData .advanced 0 0 0 0 false false).rx.bitcount.toNat = 0 ∧ 0 % 2 ≠ 1) := by decide

/-- The clauses of `BbsbBit`: bit 1, bit 25, and a command that completes silently (F10). -/
theorem witness_bbsb_bit :
    inCase (listening .syncSeen .bbsb 0 0 0 0 false false) .syncSeen .bbsb ∧ inCase lastBbsb .inData .bbsb ∧
    (listening .syncSeen .bbsb 0 0 0 0 false false).rx.bitcount.toNat + 1 = 1 ∧ lastBbsb.rx.bitcount.toNat + 1 = 25 ∧
    bbsbReads 280 false ∧ bbsbReads 340 false ∧ bbsbReads 850 true ∧ bbsbReads 950 true ∧ (∀ v, ¬bbsbReads 341 v) ∧
    (∀ v, ¬bbsbReads 849 v) ∧
    rxAfter (.edge 300 .falling) (listening .inData .bbsb 24 0x1234 2 0x16 false false) =
      some (idleDecoder, { outcome := .completeSilent }) := by decide

/-- `OnlySevenDecoderPairsRun`: both clauses. -/
theorem witness_pairs :
    (exec (.edge 300 .falling) (listening .latchSeen .simple 0 0 0 0 false false) = .refused .unreachableDecoderState) ∧
    ¬legalPair (listening .latchSeen .simple 0 0 0 0 false false).rx ∧ legalPair lastSimple.rx :=
  ⟨rfl, by decide, by decide⟩

/-- `AbortIsTotalReset`, `EdgeOutcomeLabels`: both aborts, and every other label. -/
theorem witness_labels :
    ((rxAfter (.edge 1151 .falling) lastSimple).map (·.2.outcome) = some .abortWindow) ∧
    ((rxAfter (.edge 1000 .falling) lastAdvanced).map (·.2.outcome) = some .abortParity) ∧
    ((rxAfter (.edge 375 .rising) lastSimple).map (·.2.outcome) = some .progress) ∧
    ((rxAfter (.edge 0 .rising) sent).map (·.2.outcome) = some .ignored) := by decide

/-! ## Witnesses: `SEND*`, `TICK` -/

/-- `TickAdvancesSchedule`, the clauses of a next phase and of an ignored `TICK`. -/
theorem witness_tick_next :
    sent.mode = .sending ∧ (sched sent.tx)[sent.tx.pos.toNat + 1]? = some ⟨.high, 1125⟩ ∧ State.reset.mode ≠ .sending := by
  decide

theorem repeat_bounds : 1 ≤ Config.pRepeat ∧ Config.pRepeat ≤ 65535 :=
  ⟨Nat.succ_pos _, Config.repeatIndex.isLt⟩

theorem atLastPhase_repeats {rep : Nat} (h : rep < 65536) : (atLastPhase rep).tx.repeats.toNat = rep := by
  show (BitVec.ofNat 16 rep).toNat = rep
  simp only [BitVec.toNat_ofNat]
  omega

/-- `TickAdvancesSchedule`, `ModeTransitions`: the last `TICK` of a job, whatever `P_REPEAT` is. -/
theorem witness_last_tick : lastTick (atLastPhase (Config.pRepeat - 1)) := by
  have h := repeat_bounds
  refine ⟨rfl, rfl, ?_⟩
  rw [atLastPhase_repeats (by omega)]
  omega

/-- `TickAdvancesSchedule`: the clause of the next repeat. -/
theorem witness_next_repeat :
    (atLastPhase Config.pRepeat).mode = .sending ∧
    (atLastPhase Config.pRepeat).tx.pos.toNat + 1 = (sched (atLastPhase Config.pRepeat).tx).length ∧
    (atLastPhase Config.pRepeat).tx.repeats.toNat + 1 ≠ Config.pRepeat ∧
    (sched (atLastPhase Config.pRepeat).tx)[0]? = some ⟨.low, 10000⟩ := by
  have h := repeat_bounds
  refine ⟨rfl, rfl, ?_, rfl⟩
  rw [atLastPhase_repeats (by omega)]
  omega

/-- `TickPastScheduleRefused`. -/
theorem witness_tick_past : ∃ s : State, s.mode = .sending ∧ (sched s.tx).length < s.tx.pos.toNat + 1 :=
  ⟨{ sent with tx := { sent.tx with pos := 50 } }, by decide⟩

/-- `TickInvertsLine`, `JobTakesRepeatTimesLengthTicks`, the round trips: a job, and a block that listens. -/
theorem witness_job : ∃ i t, isSend i = true ∧ exec i State.reset = .next t ∧ t.mode = .sending :=
  ⟨.senda 0x12345 3 true false, _, rfl, rfl, rfl⟩

theorem witness_receiver :
    ∃ s t r : State, exec (.sends 5 10 true) s = .next t ∧ r.mode = .listening ∧ r.rx = idleDecoder :=
  ⟨State.reset, _, listening .idle .unknown 0 0 0 0 false false, rfl, rfl, rfl⟩

theorem witness_receiver_advanced :
    ∃ s t r : State, exec (.senda 0x12345 3 true false) s = .next t ∧ r.mode = .listening ∧ r.rx = idleDecoder :=
  ⟨State.reset, _, listening .idle .unknown 0 0 0 0 false false, rfl, rfl, rfl⟩

theorem witness_receiver_bbsb :
    ∃ s t r : State, exec (.sendb 255 3 true false) s = .next t ∧ r.mode = .listening ∧ r.rx = idleDecoder :=
  ⟨State.reset, _, listening .idle .unknown 0 0 0 0 false false, rfl, rfl, rfl⟩

/-- The schedules: a job of each variant, and the first and last bit of each field. -/
theorem witness_schedules :
    ({ noJob with variant := .simple, command := 14 } : Job).variant = .simple ∧
    (sched { noJob with variant := .simple, command := 14 })[4 * 11 + 1]? = some ⟨.high, 1125⟩ ∧
    (sched { noJob with variant := .advanced, recipient := 1 })[3 + 2 * 31]? = some ⟨.high, 1180⟩ ∧
    (sched { noJob with variant := .bbsb, sender := 0x8000 })[1 + 0]? = some ⟨.high, 900⟩ ∧
    (sched { noJob with variant := .bbsb, recipient := 1 })[1 + 23]? = some ⟨.low, 900⟩ := by decide

/-- `HandlerSlotsDecideDispatchOnly`: a step whose `dispatched` differs with the slots. -/
theorem witness_slots :
    isReg (.edge 375 .falling) = false ∧
    (after (.edge 375 .falling) lastSimple).map (·.out.dispatched) = some false ∧
    (after (.edge 375 .falling) (withSlots true false false lastSimple)).map (·.out.dispatched) = some true := by decide

end Sys2Proof.Tests
end

section
/-!
The shift-in primitives as arithmetic (00_scope.md R16). The shifted accumulator and the new bit share no bit position,
so the `|` of the rule is a sum.
-/
namespace Sys2Proof.Machine

/-- `bitIn` as a number; at width 0 the bit is lost. -/
theorem toNat_bitIn (n : Nat) (b : Bool) : (bitIn n b).toNat = b.toNat % 2 ^ n := by
  simp [bitIn]

/-- The new bit takes position 0, which `acc << 1` leaves clear, and both are cut to the width. -/
theorem toNat_shlIn {n : Nat} (acc : BitVec n) (b : Bool) :
    (shlIn acc b).toNat = (2 * acc.toNat + b.toNat) % 2 ^ n := by
  calc (shlIn acc b).toNat
      = (acc.toNat <<< 1) % 2 ^ n ||| b.toNat % 2 ^ n := by
        rw [shlIn, BitVec.toNat_or, BitVec.toNat_shiftLeft, toNat_bitIn]
    _ = (acc.toNat <<< 1 ||| b.toNat) % 2 ^ n := Nat.or_mod_two_pow.symm
    _ = (acc.toNat <<< 1 + b.toNat) % 2 ^ n := by
        rw [Nat.shiftLeft_add_eq_or_of_lt (i := 1) (Bool.toNat_lt b)]
    _ = (2 * acc.toNat + b.toNat) % 2 ^ n := by rw [Nat.shiftLeft_eq, pow_one, Nat.mul_comm]

/-- The new bit takes the top position `m`, which `acc >> 1` leaves clear. -/
theorem toNat_shrIn_succ {m : Nat} (acc : BitVec (m + 1)) (b : Bool) :
    (shrIn acc b).toNat = acc.toNat / 2 + b.toNat * 2 ^ m := by
  have hbit : (bitIn (m + 1) b <<< m).toNat = b.toNat <<< m := by
    have hb : b.toNat < 2 ^ (m + 1) := by have := Bool.toNat_lt b; have := Nat.two_pow_pos m; omega
    have hfit : b.toNat <<< m < 2 ^ (m + 1) := by
      rw [Nat.shiftLeft_eq, pow_succ, Nat.mul_comm]
      exact Nat.mul_lt_mul_of_pos_left (Bool.toNat_lt b) (Nat.two_pow_pos m)
    rw [BitVec.toNat_shiftLeft, toNat_bitIn, Nat.mod_eq_of_lt hb, Nat.mod_eq_of_lt hfit]
  have hlow : acc.toNat / 2 < 2 ^ m := by have := acc.isLt; omega
  calc (shrIn acc b).toNat
      = acc.toNat / 2 ||| b.toNat <<< m := by
        rw [shrIn, BitVec.toNat_or, BitVec.toNat_ushiftRight, Nat.shiftRight_one, Nat.add_sub_cancel, hbit]
    _ = b.toNat <<< m + acc.toNat / 2 := by rw [Nat.or_comm, Nat.shiftLeft_add_eq_or_of_lt hlow]
    _ = acc.toNat / 2 + b.toNat * 2 ^ m := by rw [Nat.shiftLeft_eq, Nat.add_comm]

end Sys2Proof.Machine

open Sys2Proof.Machine

/-- Settles O22: each half is its primitive's arithmetic lemma; only `shrIn` needs a top bit to exist. -/
theorem shiftInPrimitives : Obligations.ShiftInPrimitives := by
  rintro (_ | m) acc b hn
  · omega
  · exact ⟨toNat_shlIn acc b, toNat_shrIn_succ acc b⟩
end

section
/-!
What an operation does to `MODE`, `INTSRC` and the decoder registers (10_state.md R22, R25, R45). A mode switch goes with
a total reset; otherwise only a decoded `EDGE` writes any of them, and it writes the decoder registers alone. A decoded
`EDGE` never returns to `Idle` but by a total reset.
-/
namespace Sys2Proof.Machine

open Sys2Proof.Safety

/-- The synchronizer's choice of a variant, from the decoder registers before and after it (40_receive.md R113, R114). -/
def SynchronizerChoice (rx rx' : Decoder) : Prop :=
  (rx.stage = .idle ∧ rx.variant = .unknown ∧ rx'.variant = .bbsb) ∨
  (rx.stage = .syncSeen ∧ rx.variant = .unknown ∧ (rx'.variant = .simple ∨ rx'.variant = .advanced))

/-! The remaining cases of the decoder: where each leaves the stage and the variant. -/

theorem idleStep_rx (w : Micros) (l : Level) (s : State) :
    (idleStep w l s).rx = s.rx ∨
    ((idleStep w l s).rx.stage = .syncSeen ∧
      ((idleStep w l s).rx.variant = s.rx.variant ∨ (idleStep w l s).rx.variant = .bbsb)) := by
  unfold idleStep
  split
  · exact .inr ⟨rfl, .inl rfl⟩
  · split
    · exact .inr ⟨rfl, .inr rfl⟩
    · exact .inl rfl

theorem syncStep_rx (w : Micros) (l : Level) (s : State) :
    (syncStep w l s).rx = idleDecoder ∨
    ((syncStep w l s).rx.stage = .latchSeen ∧ (syncStep w l s).rx.variant = .advanced) ∨
    ((syncStep w l s).rx.stage = .inData ∧ (syncStep w l s).rx.variant = .simple) := by
  unfold syncStep
  split
  · exact .inr (.inl ⟨rfl, rfl⟩)
  · split
    · exact (simpleHalf_rx w _).imp_right .inr
    · exact .inl rfl

theorem latchStep_rx (w : Micros) (l : Level) (s : State) :
    (latchStep w l s).rx = idleDecoder ∨
    ((latchStep w l s).rx.stage = .inData ∧ (latchStep w l s).rx.variant = s.rx.variant) := by
  unfold latchStep
  split
  · exact .inr ⟨rfl, rfl⟩
  · exact .inl rfl

theorem simpleStep_rx (w : Micros) (l : Level) (s : State) :
    (simpleStep w l s).rx = idleDecoder ∨
    ((simpleStep w l s).rx.stage = s.rx.stage ∧ (simpleStep w l s).rx.variant = s.rx.variant) := by
  unfold simpleStep
  split
  · exact simpleHalf_rx w s
  · split
    · exact .inr ⟨rfl, rfl⟩
    · exact .inl rfl

/-- A decoded edge is ignored, ends at the total reset, or leaves a frame in progress, whose variant is the one before or
the synchronizer's choice. -/
theorem decodeEdge_rx {w : Micros} {l : Level} {s t : State} (h : decodeEdge w l s = .next t) :
    t.rx = s.rx ∨ t.rx = idleDecoder ∨
    (t.rx.stage ≠ .idle ∧ (t.rx.variant = s.rx.variant ∨ SynchronizerChoice s.rx t.rx)) := by
  obtain ⟨hst, hv, rfl⟩ | ⟨hst, hv, rfl⟩ | ⟨-, -, rfl⟩ | ⟨hst, -, rfl⟩ | ⟨hst, -, rfl⟩ | ⟨-, -, rfl⟩ := decodeEdge_next h
  · obtain hrx | ⟨hst', hv' | hv'⟩ := idleStep_rx w l s
    · exact .inl hrx
    · exact .inr (.inr ⟨by simp [hst'], .inl hv'⟩)
    · exact .inr (.inr ⟨by simp [hst'], .inr (.inl ⟨hst, hv, hv'⟩)⟩)
  · obtain hrx | ⟨hst', hv'⟩ | ⟨hst', hv'⟩ := syncStep_rx w l s
    · exact .inr (.inl hrx)
    · exact .inr (.inr ⟨by simp [hst'], .inr (.inr ⟨hst, hv, .inr hv'⟩)⟩)
    · exact .inr (.inr ⟨by simp [hst'], .inr (.inr ⟨hst, hv, .inl hv'⟩)⟩)
  · exact .inr ((latchStep_rx w l s).imp_right fun ⟨hst', hv'⟩ => ⟨by simp [hst'], .inl hv'⟩)
  · exact .inr ((simpleStep_rx w l s).imp_right fun ⟨hst', hv'⟩ => ⟨by simp [hst', hst], .inl hv'⟩)
  · exact .inr ((advStep_rx w s).imp_right fun ⟨hst', hv'⟩ => ⟨by simp [hst', hst], .inl hv'⟩)
  · exact .inr ((bbsbStep_rx w s).imp_right fun ⟨hst', hv'⟩ => ⟨by simp [hst'], .inl hv'⟩)

/-- What every operation does to `MODE`, `INTSRC` and the decoder: nothing, one decoded edge, or a switch to `LISTENING`
or `SENDING` with the total reset. -/
theorem exec_mode_rx {i : Instr} {s t : State} (h : exec i s = .next t) :
    (t.mode = s.mode ∧ t.intsrc = s.intsrc ∧ t.rx = s.rx) ∨
    (∃ w p, i = .edge w p ∧ s.mode = .listening ∧ decodeEdge w (phaseLevel p) s = .next t) ∨
    (((t.mode = .listening ∧ t.intsrc = .edgeCapture) ∨ (t.mode = .sending ∧ t.intsrc = .periodicCompare)) ∧
      t.rx = idleDecoder) := by
  cases i with
  | edge w p =>
    obtain ⟨-, rfl⟩ | ⟨hm, hd⟩ := execEdge_next h
    · exact .inl ⟨rfl, rfl, rfl⟩
    · exact .inr (.inl ⟨w, p, rfl, hm, hd⟩)
  | tick =>
    obtain ⟨-, rfl⟩ | ⟨-, -, -, rfl⟩ | ⟨-, -, -, rfl⟩ | ⟨-, -, rfl⟩ := tickWith_next h
    · exact .inl ⟨rfl, rfl, rfl⟩
    · exact .inr (.inr ⟨.inl ⟨rfl, rfl⟩, rfl⟩)
    · exact .inl ⟨rfl, rfl, rfl⟩
    · exact .inl ⟨rfl, rfl, rfl⟩
  | init => cases h; exact .inr (.inr ⟨.inl ⟨rfl, rfl⟩, rfl⟩)
  | regs | rega | regb => cases h; exact .inl ⟨rfl, rfl, rfl⟩
  | sends | senda | sendb => cases h; exact .inr (.inr ⟨.inr ⟨rfl, rfl⟩, rfl⟩)

/-- `MODE` and `INTSRC` stay, or are written together to one of the two armed pairs (10_state.md R22). -/
theorem exec_mode_intsrc {i : Instr} {s t : State} (h : exec i s = .next t) :
    (t.mode = s.mode ∧ t.intsrc = s.intsrc) ∨
    (t.mode = .listening ∧ t.intsrc = .edgeCapture) ∨ (t.mode = .sending ∧ t.intsrc = .periodicCompare) := by
  obtain ⟨hm, hi, -⟩ | ⟨w, p, -, -, hd⟩ | ⟨hpair, -⟩ := exec_mode_rx h
  · exact .inl ⟨hm, hi⟩
  · obtain ⟨hm, hi, -⟩ := decodeEdge_rxOnly hd
    exact .inl ⟨hm, hi⟩
  · exact .inr hpair

/-- Every operation keeps the decoder, resets it, or, in `LISTENING`, leaves a frame in progress (10_state.md R25, R45). -/
theorem exec_rx {i : Instr} {s t : State} (h : exec i s = .next t) :
    t.rx = s.rx ∨ t.rx = idleDecoder ∨
    (s.mode = .listening ∧ t.rx.stage ≠ .idle ∧ (t.rx.variant = s.rx.variant ∨ SynchronizerChoice s.rx t.rx)) := by
  obtain ⟨-, -, hrx⟩ | ⟨w, p, -, hm, hd⟩ | ⟨-, hrx⟩ := exec_mode_rx h
  · exact .inl hrx
  · exact (decodeEdge_rx hd).imp_right (Or.imp_right fun hframe => ⟨hm, hframe⟩)
  · exact .inr (.inl hrx)

/-- The source that goes with each mode (10_state.md R22). -/
def Mode.source : Mode → IntSrc
  | .unarmed => .none
  | .listening => .edgeCapture
  | .sending => .periodicCompare

theorem Mode.source_injective : Function.Injective Mode.source := by
  rintro (_ | _ | _) (_ | _ | _) h <;> simp_all [Mode.source]

theorem modeSource_iff (s : State) : modeSource s ↔ s.intsrc = s.mode.source := by
  cases hm : s.mode <;> simp [modeSource, hm, Mode.source]

theorem modeSource_mode_eq_iff {s t : State} (hs : modeSource s) (ht : modeSource t) :
    t.mode = s.mode ↔ t.intsrc = s.intsrc := by
  rw [(modeSource_iff s).mp hs, (modeSource_iff t).mp ht, Mode.source_injective.eq_iff]

end Sys2Proof.Machine

open Sys2Proof.Machine Sys2Proof.Safety

/-- Settles O17: the pair stays or becomes an armed pair, and as the source is an injective function of the mode, neither
changes alone. -/
theorem modeAndSourceStayPaired : Obligations.ModeAndSourceStayPaired := by
  refine ⟨rfl, rfl, fun i s t hs h => ?_⟩
  have ht : modeSource t := by
    obtain ⟨hm, hi⟩ | hpair := exec_mode_intsrc h
    · simpa only [modeSource, hm, hi] using hs
    · exact .inr hpair
  exact ⟨ht, modeSource_mode_eq_iff hs ht⟩

/-- Settles O18: an operation that leaves the decoder neither as it was nor reset leaves it outside `Idle`. -/
theorem idleStageMeansClearDecoder : Obligations.IdleStageMeansClearDecoder := by
  refine ⟨fun _ => rfl, fun i s t hs h hidle => ?_⟩
  obtain hrx | hrx | ⟨-, hframe, -⟩ := exec_rx h
  · rw [hrx] at hidle ⊢
    exact hs hidle
  · exact hrx
  · exact absurd hidle hframe

/-- Settles O21: the only writes of another variant that `exec_rx` leaves are the total reset and the synchronizer's. -/
theorem variantFixedDuringFrame : Obligations.VariantFixedDuringFrame := by
  refine ⟨rfl, fun i s t h hne => ?_⟩
  obtain hrx | hrx | ⟨hm, -, hv | ⟨hst, hu, hb⟩ | ⟨hst, hu, hsa⟩⟩ := exec_rx h
  · exact absurd (congrArg Decoder.variant hrx) hne
  · exact .inl hrx
  · exact absurd hv hne
  · exact .inr (.inl ⟨hm, hst, hu, hb⟩)
  · exact .inr (.inr ⟨hm, hst, hu, hsa⟩)
end

section
/-!
The decoder as arithmetic on words (30_encoding.md R80 to R89). A row's mask looks at every bit from some position up,
so a word is of a row when its upper part is the row's; an operand is a remainder of the
quotient by the power of 2 at its position.
-/
namespace Sys2Proof

open Laws Claims Machine

/-! Words and operands as numbers (R80, R89). -/

/-- A mask of every bit from `n` up keeps the multiple of `2 ^ n` below the word. -/
theorem and_upper_eq_iff (w p : Word) (n : Nat) :
    w &&& BitVec.allOnes 64 <<< n = p ↔ w.toNat / 2 ^ n * 2 ^ n = p.toNat := by
  have hfit : w.toNat / 2 ^ n * 2 ^ n < 2 ^ 64 := (Nat.div_mul_le_self _ _).trans_lt w.isLt
  rw [← BitVec.shiftLeft_ushiftRight, ← BitVec.toNat_inj, BitVec.toNat_shiftLeft, BitVec.toNat_ushiftRight,
    Nat.shiftRight_eq_div_pow, Nat.shiftLeft_eq, Nat.mod_eq_of_lt hfit]

theorem toNat_ofNat_word {k : Nat} (h : k < 2 ^ 64) : (BitVec.ofNat 64 k).toNat = k := by
  rw [BitVec.toNat_ofNat, Nat.mod_eq_of_lt h]

theorem fieldAt_eq_iff {w : Word} {lo n : Nat} {x : BitVec n} :
    fieldAt w lo n = x ↔ w.toNat / 2 ^ lo % 2 ^ n = x.toNat := by
  rw [fieldAt, ← BitVec.toNat_inj, BitVec.extractLsb'_toNat, Nat.shiftRight_eq_div_pow]

theorem bitAt_eq_iff {w : Word} {k : Nat} {b : Bool} : bitAt w k = b ↔ w.toNat / 2 ^ k % 2 = b.toNat := by
  rw [bitAt, BitVec.getLsbD, ← Nat.toNat_testBit]
  cases w.toNat.testBit k <;> cases b <;> decide

theorem OpRow.hits_iff {r : OpRow} {w : Word} : r.hits w = true ↔ w &&& r.mask = r.pattern := beq_iff_eq

/-- A row whose mask looks at every bit from `n` up, against a word as a number. -/
theorem OpRow.hits_iff_upper {r : OpRow} (n p : Nat) (hmask : r.mask = BitVec.allOnes 64 <<< n)
    (hpat : r.pattern.toNat = p) (w : Word) : r.hits w = true ↔ w.toNat / 2 ^ n * 2 ^ n = p := by
  rw [OpRow.hits_iff, hmask, and_upper_eq_iff, hpat]

/-! The row of an operation (R81): a word decodes to an operation of a row exactly when it is of the row. -/

/-- The row of the opcode table an operation is encoded by. -/
def rowOf : Instr → OpRow
  | .edge .. => rowEdge
  | .tick => rowTick
  | .init => rowInit
  | .regs _ => rowRegs
  | .rega _ => rowRega
  | .regb _ => rowRegb
  | .sends .. => rowSends
  | .senda .. => rowSenda
  | .sendb .. => rowSendb

theorem rowOf_mem (i : Instr) : rowOf i ∈ opcodeTable := by cases i <;> simp [rowOf, opcodeTable]

theorem hits_of_decode {w : Word} {i : Instr} (h : decode w = .ok i) : (rowOf i).hits w = true := by
  obtain ⟨hw, rfl⟩ | ⟨hw, rfl⟩ | ⟨hw, rfl⟩ | ⟨hw, rfl⟩ | ⟨hw, rfl⟩ | ⟨hw, rfl⟩ | ⟨hw, rfl⟩ | ⟨hw, rfl⟩ | ⟨hw, rfl⟩ :=
    decode_cases h <;> exact hw

theorem and_mask_of_decode {w : Word} {i : Instr} (h : decode w = .ok i) :
    w &&& (rowOf i).mask = (rowOf i).pattern := OpRow.hits_iff.mp (hits_of_decode h)

theorem exists_decode_of_hits {r : OpRow} {w : Word} (hr : r ∈ opcodeTable) (h : r.hits w = true) :
    ∃ i, decode w = .ok i := by
  simp only [opcodeTable, List.mem_cons, List.not_mem_nil, or_false] at hr
  obtain rfl | rfl | rfl | rfl | rfl | rfl | rfl | rfl | rfl := hr
  · exact ⟨_, decode_edge h⟩
  · exact ⟨_, decode_tick h⟩
  · exact ⟨_, decode_init h⟩
  · exact ⟨_, decode_regs h⟩
  · exact ⟨_, decode_rega h⟩
  · exact ⟨_, decode_regb h⟩
  · exact ⟨_, decode_sends h⟩
  · exact ⟨_, decode_senda h⟩
  · exact ⟨_, decode_sendb h⟩

theorem exists_decode_iff_hits {w : Word} : (∃ i, decode w = .ok i) ↔ ∃ r ∈ opcodeTable, r.hits w = true :=
  ⟨fun ⟨i, h⟩ => ⟨rowOf i, rowOf_mem i, hits_of_decode h⟩, fun ⟨_, hr, h⟩ => exists_decode_of_hits hr h⟩

/-! `op` and the reserved bits (R80, R81, R88). -/

/-- The opcode of a row. -/
def OpRow.op (r : OpRow) : Nat := r.pattern.toNat / 2 ^ 60

/-- The assigned opcodes are 0x1 to 0x9. -/
theorem opcodeTable_ops : opcodeTable.map OpRow.op = List.range' 1 9 := by decide

/-- A row's mask is the bits of `op` and the format's reserved bits, and its pattern is `op` alone. -/
theorem opcodeTable_masks : ∀ r ∈ opcodeTable,
    r.mask = BitVec.allOnes 64 <<< 60 ||| reservedMask r.op ∧
    r.pattern &&& BitVec.allOnes 64 <<< 60 = r.pattern ∧ r.pattern &&& reservedMask r.op = 0 ∧
    r.pattern.toNat = r.op * 2 ^ 60 := by decide

/-- A masked comparison splits in two where the pattern lies in the first mask. -/
theorem and_or_mask_eq_iff {w p a b : Word} (ha : p &&& a = p) (hb : p &&& b = 0) :
    w &&& (a ||| b) = p ↔ w &&& a = p ∧ w &&& b = 0 := by
  constructor
  · intro h
    have hwa : w &&& a = w &&& (a ||| b) &&& a := by ext; grind
    have hwb : w &&& b = w &&& (a ||| b) &&& b := by ext; grind
    exact ⟨by rw [hwa, h, ha], by rw [hwb, h, hb]⟩
  · rintro ⟨hwa, hwb⟩
    rw [BitVec.and_or_distrib_left, hwa, hwb]
    exact BitVec.or_zero

/-- A word is of a row exactly when it has the row's `op` and no reserved bit of the row's format. -/
theorem hits_iff_op_reserved {r : OpRow} (hr : r ∈ opcodeTable) (w : Word) :
    r.hits w = true ↔ w.toNat / 2 ^ 60 = r.op ∧ w &&& reservedMask r.op = 0 := by
  obtain ⟨hmask, hop, hres, hpat⟩ := opcodeTable_masks r hr
  rw [OpRow.hits_iff, hmask, and_or_mask_eq_iff hop hres, and_upper_eq_iff, hpat,
    Nat.mul_left_inj (Nat.two_pow_pos 60).ne']

/-- R88, as what is admitted: an assigned `op` and no reserved bit of its format. -/
theorem exists_decode_iff {w : Word} :
    (∃ i, decode w = .ok i) ↔
      1 ≤ w.toNat / 2 ^ 60 ∧ w.toNat / 2 ^ 60 ≤ 9 ∧ w &&& reservedMask (w.toNat / 2 ^ 60) = 0 := by
  have hops : (∃ r ∈ opcodeTable, r.op = w.toNat / 2 ^ 60) ↔ 1 ≤ w.toNat / 2 ^ 60 ∧ w.toNat / 2 ^ 60 ≤ 9 := by
    rw [← List.mem_map, opcodeTable_ops, List.mem_range'_1, Nat.lt_succ_iff]
  rw [exists_decode_iff_hits, ← and_assoc, ← hops]
  constructor
  · rintro ⟨r, hr, h⟩
    obtain ⟨hop, hres⟩ := (hits_iff_op_reserved hr w).mp h
    exact ⟨⟨r, hr, hop.symm⟩, hop ▸ hres⟩
  · rintro ⟨⟨r, hr, hop⟩, hres⟩
    exact ⟨r, hr, (hits_iff_op_reserved hr w).mpr ⟨hop.symm, hop ▸ hres⟩⟩

theorem exists_error_iff {w : Word} : (∃ e, decode w = .error e) ↔ ¬ ∃ i, decode w = .ok i := by
  cases decode w <;> simp

/-- A refused word at the head of the stream is a refused step (R88). -/
theorem step_refused {s : State} {w : Word} {rest : List Word} {e : DecodeError} (hs : s.ops = w :: rest)
    (h : decode w = .error e) : step s = .refused (refusalFor e) := by
  simp only [step, nextWord, hs, h]

/-! Operands at their bit positions (R82 to R87). The operands of a row stay below the bits its mask looks at. -/

theorem decode_edge_of_toNat {w : Word} (width : BitVec 32) (pol : Bool)
    (hw : w.toNat = 0x1000000000000000 + pol.toNat * 2 ^ 32 + width.toNat) :
    decode w = .ok (.edge width (polarityOfBit pol)) := by
  have := width.isLt
  have := Bool.toNat_lt pol
  have hhit : rowEdge.hits w = true := (OpRow.hits_iff_upper 33 0x1000000000000000 rfl rfl w).mpr (by omega)
  have hwidth : fieldAt w 0 32 = width := fieldAt_eq_iff.mpr (by omega)
  have hpol : bitAt w 32 = pol := bitAt_eq_iff.mpr (by omega)
  rw [decode_edge hhit, hwidth, hpol]

/-- Format F-REG (R84): one flag, at bit 0. -/
theorem flagRow_of_toNat {r : OpRow} {w : Word} {present : Bool} (hmask : r.mask = BitVec.allOnes 64 <<< 1)
    (heven : 2 ∣ r.pattern.toNat) (hw : w.toNat = r.pattern.toNat + present.toNat) :
    r.hits w = true ∧ bitAt w 0 = present := by
  have := Bool.toNat_lt present
  exact ⟨(OpRow.hits_iff_upper 1 _ hmask rfl w).mpr (by omega), bitAt_eq_iff.mpr (by omega)⟩

theorem decode_regs_of_toNat {w : Word} (present : Bool) (hw : w.toNat = 0x4000000000000000 + present.toNat) :
    decode w = .ok (.regs present) := by
  obtain ⟨hhit, hpresent⟩ := flagRow_of_toNat (r := rowRegs) rfl (by decide) hw
  rw [decode_regs hhit, hpresent]

theorem decode_rega_of_toNat {w : Word} (present : Bool) (hw : w.toNat = 0x5000000000000000 + present.toNat) :
    decode w = .ok (.rega present) := by
  obtain ⟨hhit, hpresent⟩ := flagRow_of_toNat (r := rowRega) rfl (by decide) hw
  rw [decode_rega hhit, hpresent]

theorem decode_regb_of_toNat {w : Word} (present : Bool) (hw : w.toNat = 0x6000000000000000 + present.toNat) :
    decode w = .ok (.regb present) := by
  obtain ⟨hhit, hpresent⟩ := flagRow_of_toNat (r := rowRegb) rfl (by decide) hw
  rw [decode_regb hhit, hpresent]

theorem decode_sends_of_toNat {w : Word} (snd rcp : BitVec 4) (on : Bool)
    (hw : w.toNat = 0x7000000000000000 + on.toNat * 2 ^ 8 + rcp.toNat * 2 ^ 4 + snd.toNat) :
    decode w = .ok (.sends snd rcp on) := by
  have := snd.isLt
  have := rcp.isLt
  have := Bool.toNat_lt on
  have hhit : rowSends.hits w = true := (OpRow.hits_iff_upper 9 0x7000000000000000 rfl rfl w).mpr (by omega)
  have hsnd : fieldAt w 0 4 = snd := fieldAt_eq_iff.mpr (by omega)
  have hrcp : fieldAt w 4 4 = rcp := fieldAt_eq_iff.mpr (by omega)
  have hon : bitAt w 8 = on := bitAt_eq_iff.mpr (by omega)
  rw [decode_sends hhit, hsnd, hrcp, hon]

theorem decode_senda_of_toNat {w : Word} (snd : BitVec 26) (rcp : BitVec 4) (cmd grp : Bool)
    (hw : w.toNat =
      0x8000000000000000 + grp.toNat * 2 ^ 31 + cmd.toNat * 2 ^ 30 + rcp.toNat * 2 ^ 26 + snd.toNat) :
    decode w = .ok (.senda snd rcp cmd grp) := by
  have := snd.isLt
  have := rcp.isLt
  have := Bool.toNat_lt cmd
  have := Bool.toNat_lt grp
  have hhit : rowSenda.hits w = true := (OpRow.hits_iff_upper 32 0x8000000000000000 rfl rfl w).mpr (by omega)
  have hsnd : fieldAt w 0 26 = snd := fieldAt_eq_iff.mpr (by omega)
  have hrcp : fieldAt w 26 4 = rcp := fieldAt_eq_iff.mpr (by omega)
  have hcmd : bitAt w 30 = cmd := bitAt_eq_iff.mpr (by omega)
  have hgrp : bitAt w 31 = grp := bitAt_eq_iff.mpr (by omega)
  rw [decode_senda hhit, hsnd, hrcp, hcmd, hgrp]

theorem decode_sendb_of_toNat {w : Word} (snd : BitVec 16) (rcp : BitVec 3) (on grp : Bool)
    (hw : w.toNat =
      0x9000000000000000 + grp.toNat * 2 ^ 20 + on.toNat * 2 ^ 19 + rcp.toNat * 2 ^ 16 + snd.toNat) :
    decode w = .ok (.sendb snd rcp on grp) := by
  have := snd.isLt
  have := rcp.isLt
  have := Bool.toNat_lt on
  have := Bool.toNat_lt grp
  have hhit : rowSendb.hits w = true := (OpRow.hits_iff_upper 21 0x9000000000000000 rfl rfl w).mpr (by omega)
  have hsnd : fieldAt w 0 16 = snd := fieldAt_eq_iff.mpr (by omega)
  have hrcp : fieldAt w 16 3 = rcp := fieldAt_eq_iff.mpr (by omega)
  have hon : bitAt w 19 = on := bitAt_eq_iff.mpr (by omega)
  have hgrp : bitAt w 20 = grp := bitAt_eq_iff.mpr (by omega)
  rw [decode_sendb hhit, hsnd, hrcp, hon, hgrp]

end Sys2Proof

open Sys2Proof Sys2Proof.Laws

/-- Settles O2: a decoded word is of its operation's row, and a row's word holds the operands as its quotients. -/
theorem formatsPlaceOperands : Obligations.FormatsPlaceOperands := by
  refine ⟨fun w => ⟨?_, ?_, ?_, ?_, ?_, ?_, ?_, ?_, ?_⟩, fun width pol => ?_, fun present => ⟨?_, ?_, ?_⟩,
    fun snd rcp on => ?_, fun snd rcp cmd grp => ?_, fun snd rcp on grp => ?_⟩
  · exact ⟨fun ⟨_, _, h⟩ => and_mask_of_decode h, fun h => ⟨_, _, decode_edge (OpRow.hits_iff.mpr h)⟩⟩
  · exact ⟨and_mask_of_decode, fun h => decode_tick (OpRow.hits_iff.mpr h)⟩
  · exact ⟨and_mask_of_decode, fun h => decode_init (OpRow.hits_iff.mpr h)⟩
  · exact ⟨fun ⟨_, h⟩ => and_mask_of_decode h, fun h => ⟨_, decode_regs (OpRow.hits_iff.mpr h)⟩⟩
  · exact ⟨fun ⟨_, h⟩ => and_mask_of_decode h, fun h => ⟨_, decode_rega (OpRow.hits_iff.mpr h)⟩⟩
  · exact ⟨fun ⟨_, h⟩ => and_mask_of_decode h, fun h => ⟨_, decode_regb (OpRow.hits_iff.mpr h)⟩⟩
  · exact ⟨fun ⟨_, _, _, h⟩ => and_mask_of_decode h, fun h => ⟨_, _, _, decode_sends (OpRow.hits_iff.mpr h)⟩⟩
  · exact ⟨fun ⟨_, _, _, _, h⟩ => and_mask_of_decode h,
      fun h => ⟨_, _, _, _, decode_senda (OpRow.hits_iff.mpr h)⟩⟩
  · exact ⟨fun ⟨_, _, _, _, h⟩ => and_mask_of_decode h,
      fun h => ⟨_, _, _, _, decode_sendb (OpRow.hits_iff.mpr h)⟩⟩
  · exact decode_edge_of_toNat width pol (toNat_ofNat_word (by have := Bool.toNat_lt pol; omega))
  · exact decode_regs_of_toNat present (toNat_ofNat_word (by have := Bool.toNat_lt present; omega))
  · exact decode_rega_of_toNat present (toNat_ofNat_word (by have := Bool.toNat_lt present; omega))
  · exact decode_regb_of_toNat present (toNat_ofNat_word (by have := Bool.toNat_lt present; omega))
  · exact decode_sends_of_toNat snd rcp on (toNat_ofNat_word (by have := Bool.toNat_lt on; omega))
  · exact decode_senda_of_toNat snd rcp cmd grp (toNat_ofNat_word
      (by have := Bool.toNat_lt cmd; have := Bool.toNat_lt grp; omega))
  · exact decode_sendb_of_toNat snd rcp on grp (toNat_ofNat_word
      (by have := Bool.toNat_lt on; have := Bool.toNat_lt grp; omega))

/-- Settles O5: the two premises are `exists_decode_iff`'s condition and its negation, and `step` names the refusal the
decoder gives. -/
theorem reservedWordsRefused : Obligations.ReservedWordsRefused := by
  refine fun w => ⟨exists_decode_iff.mpr, fun h => ?_⟩
  have hrefused : ∃ e, decode w = .error e := by
    rw [exists_error_iff, exists_decode_iff]
    rintro ⟨hlo, hhi, hres⟩
    obtain h | h | h := h
    · omega
    · omega
    · exact h hres
  refine ⟨hrefused, fun s rest hs => ?_⟩
  obtain ⟨e, he⟩ := hrefused
  rw [step_refused hs he]
  cases e with
  | reservedOpcode => exact .inl rfl
  | reservedBits => exact .inr rfl
end

section
/-!
The width classifiers and the recipient tables in the spec's numbers (40_receive.md R112, R125; 41_transmit.md R154).
-/
namespace Sys2Proof.Machine

open Sys2Proof.Claims

theorem simpleVal_eq_some_iff {w : Micros} {n : Nat} {v : Bool} : simpleVal w n = some v ↔ simpleReads w n v := by
  cases v with
  | false => simp [simpleVal_eq_some_false, simpleReads]
  | true =>
    have heven : (n : Int) % 2 = 0 ↔ n % 2 = 0 := by omega
    simp [simpleVal_eq_some_true, heven, simpleReads]

theorem advVal_eq_some_iff {w : Micros} {v : Bool} : advVal w = some v ↔ advReads w v := by
  cases v with
  | false => simp [advVal_eq_some_false, advReads]
  | true => simp [advVal_eq_some_true, advReads]

theorem bbsbVal_eq_some_iff {w : Micros} {v : Bool} : bbsbVal w = some v ↔ bbsbReads w v := by
  cases v with
  | false => simp [bbsbVal_eq_some_false, bbsbReads]
  | true => simp [bbsbVal_eq_some_true, bbsbReads]

theorem simpleGapOk_iff {w : Micros} : simpleGapOk w = true ↔ within w 280 430 ∨ within w 975 1150 := by
  rw [simpleGapOk, Bool.or_eq_true, inWindow_iff, inWindow_iff]
  rfl

/-! `INVALID`: the width reads as neither value. -/

theorem simpleVal_eq_none_iff {w : Micros} {n : Nat} : simpleVal w n = none ↔ ∀ v, ¬simpleReads w n v := by
  simp only [Option.eq_none_iff_forall_ne_some, ne_eq, simpleVal_eq_some_iff]

theorem advVal_eq_none_iff {w : Micros} : advVal w = none ↔ ∀ v, ¬advReads w v := by
  simp only [Option.eq_none_iff_forall_ne_some, ne_eq, advVal_eq_some_iff]

theorem bbsbVal_eq_none_iff {w : Micros} : bbsbVal w = none ↔ ∀ v, ¬bbsbReads w v := by
  simp only [Option.eq_none_iff_forall_ne_some, ne_eq, bbsbVal_eq_some_iff]

/-! The recipient tables. -/

theorem toNat_bbsbRemap (x : BitVec 3) : (bbsbRemap x).toNat = remapFormula x.toNat := by
  unfold remapFormula
  split_ifs with hlow hodd
  · rw [bbsbRemap_low x hlow]
    rfl
  · exact bbsbRemap_odd x (by omega) hodd
  · exact bbsbRemap_even x (by omega) (by omega)

theorem toNat_bbsbSendCode (r : BitVec 3) (g : Bool) : (bbsbSendCode r g).toNat = sendFormula r.toNat g := by
  cases g with
  | true => rfl
  | false =>
    simp only [sendFormula, Bool.false_eq_true, if_false]
    split_ifs with hhigh
    · exact bbsbSendCode_high r hhigh
    · exact bbsbSendCode_low r (by omega)

/-- The table of R154: what a receiver makes of the code that is sent. -/
theorem toNat_bbsbRemap_bbsbSendCode : ∀ (r : BitVec 3) (g : Bool),
    (bbsbRemap (bbsbSendCode r g)).toNat = if g = false ∧ r.toNat ≤ 6 then r.toNat else 0 := by decide

/-- Only code 7 is received as a group command (R125). -/
theorem bbsbRemap_eq_one_iff : ∀ x : BitVec 3, bbsbRemap x = 1 ↔ x = 7 := by decide

/-- Only recipient 1 without a group request is sent as code 7 (R154). -/
theorem bbsbSendCode_eq_seven_iff : ∀ (r : BitVec 3) (g : Bool), bbsbSendCode r g = 7 ↔ g = false ∧ r = 1 := by decide

end Sys2Proof.Machine

open Sys2Proof.Machine

/-- Settles O23: one equivalence for each classifier. -/
theorem classifiersFollowWindows : Obligations.ClassifiersFollowWindows :=
  fun _ _ _ => ⟨simpleVal_eq_some_iff, advVal_eq_some_iff, bbsbVal_eq_some_iff, simpleGapOk_iff⟩

/-- Settles O24: the formulas and the composition, table by table; the group rows by the code that is sent. -/
theorem recipientTransforms : Obligations.RecipientTransforms :=
  fun r g => ⟨toNat_bbsbRemap r, toNat_bbsbSendCode r g, toNat_bbsbRemap_bbsbSendCode r g, bbsbRemap_eq_one_iff r,
    (bbsbRemap_eq_one_iff _).trans (bbsbSendCode_eq_seven_iff r g)⟩
end

section
/-!
One edge in each case of the decoder (40_receive.md R110), and the cases that take no data bit: the preamble, the latch
and the gap (R113, R115, R117).
-/
namespace Sys2Proof.Machine

open Sys2Proof.Safety Sys2Proof.Claims

@[simp] theorem phaseLevel_eq_low {p : Polarity} : phaseLevel p = .low ↔ p = .rising := by cases p <;> simp [phaseLevel]

@[simp] theorem phaseLevel_eq_high {p : Polarity} : phaseLevel p = .high ↔ p = .falling := by
  cases p <;> simp [phaseLevel]

/-! The dispatch (R110, R131). -/

section
variable {w : Micros} {p : Polarity} {s : State}

theorem exec_edge_ignored (h : s.mode ≠ .listening) : exec (.edge w p) s = .next (label .ignored s) := if_neg h

theorem exec_edge_listening (h : s.mode = .listening) : exec (.edge w p) s = decodeEdge w (phaseLevel p) s := if_pos h

theorem exec_edge_idle (h : inCase s .idle .unknown) :
    exec (.edge w p) s = .next (idleStep w (phaseLevel p) s) := by
  obtain ⟨hmode, hstage, hvariant⟩ := h
  simp only [exec_edge_listening hmode, decodeEdge, hstage, hvariant]

theorem exec_edge_sync (h : inCase s .syncSeen .unknown) :
    exec (.edge w p) s = .next (syncStep w (phaseLevel p) s) := by
  obtain ⟨hmode, hstage, hvariant⟩ := h
  simp only [exec_edge_listening hmode, decodeEdge, hstage, hvariant]

theorem exec_edge_latch (h : inCase s .latchSeen .advanced) :
    exec (.edge w p) s = .next (latchStep w (phaseLevel p) s) := by
  obtain ⟨hmode, hstage, hvariant⟩ := h
  simp only [exec_edge_listening hmode, decodeEdge, hstage, hvariant]

theorem exec_edge_simple (h : inCase s .inData .simple) :
    exec (.edge w p) s = .next (simpleStep w (phaseLevel p) s) := by
  obtain ⟨hmode, hstage, hvariant⟩ := h
  simp only [exec_edge_listening hmode, decodeEdge, hstage, hvariant]

theorem exec_edge_advanced (h : inCase s .inData .advanced) : exec (.edge w p) s = .next (advStep w s) := by
  obtain ⟨hmode, hstage, hvariant⟩ := h
  simp only [exec_edge_listening hmode, decodeEdge, hstage, hvariant]

theorem exec_edge_bbsb (h : inCase s .inData .bbsb ∨ inCase s .syncSeen .bbsb) :
    exec (.edge w p) s = .next (bbsbStep w s) := by
  obtain ⟨hmode, hstage, hvariant⟩ | ⟨hmode, hstage, hvariant⟩ := h <;>
    simp only [exec_edge_listening hmode, decodeEdge, hstage, hvariant]

end

/-! The cases without a data bit, with the windows as numbers. -/

theorem idleStep_eq (w : Micros) (l : Level) (s : State) :
    idleStep w l s =
      if l = .low ∧ within w 9480 11500 then
        { s with rx := { s.rx with stage := .syncSeen }, out := { outcome := .progress } }
      else if l = .low ∧ within w 8500 9479 then
        { s with rx := { s.rx with stage := .syncSeen, variant := .bbsb }, out := { outcome := .progress } }
      else { s with out := { outcome := .ignored } } := by
  simp only [idleStep, inWindow_iff]
  rfl

theorem latchStep_eq (w : Micros) (l : Level) (s : State) :
    latchStep w l s =
      if l = .low ∧ within w 2350 2750 then
        { s with rx := { s.rx with stage := .inData, sender := 0, bitcount := 0 }, out := { outcome := .progress } }
      else { s with rx := idleDecoder, out := { outcome := .abortWindow } } := by
  simp only [latchStep, inWindow_iff]
  rfl

theorem simpleStep_low_eq (w : Micros) (s : State) :
    simpleStep w .low s =
      if within w 280 430 ∨ within w 975 1150 then { s with out := { outcome := .progress } }
      else { s with rx := idleDecoder, out := { outcome := .abortWindow } } := by
  simp only [simpleStep, simpleGapOk_iff]
  rfl

end Sys2Proof.Machine

open Sys2Proof.Machine

/-- Settles O25: the dispatch outside `LISTENING`. -/
theorem edgeIgnoredOutsideListening : Obligations.EdgeIgnoredOutsideListening := fun _ _ _ h => exec_edge_ignored h

/-- Settles O26: the two windows are disjoint, so the second test of `idleStep` is reached in the second. -/
theorem preambleSelectsVariant : Obligations.PreambleSelectsVariant := by
  intro s w p hcase
  simp only [exec_edge_idle hcase, idleStep_eq, phaseLevel_eq_low]
  refine ⟨fun hp hw => ?_, fun hp hw => ?_, fun h => ?_⟩
  · rw [if_pos ⟨hp, hw⟩]
  · rw [if_neg (by omega), if_pos ⟨hp, hw⟩]
  · have hout (hp : p = .rising) : w.toNat < 8500 ∨ 11500 < w.toNat := h.resolve_left (by simp [hp])
    rw [if_neg fun ⟨hp, hw⟩ => by have := hout hp; omega, if_neg fun ⟨hp, hw⟩ => by have := hout hp; omega]

/-- Settles O28: the one test of `latchStep` and its negation. -/
theorem latchLowPulse : Obligations.LatchLowPulse := by
  intro s w p hcase
  simp only [exec_edge_latch hcase, latchStep_eq, phaseLevel_eq_low]
  refine ⟨fun hp hw => ?_, fun h => ?_⟩
  · rw [if_pos ⟨hp, hw⟩]
  · rw [if_neg]
    rintro ⟨rfl, hw⟩
    exact h.elim nofun (absurd hw)

/-- Settles O29: the one test of a gap and its negation. -/
theorem simpleGapChecked : Obligations.SimpleGapChecked := by
  intro s w hcase
  simp only [exec_edge_simple hcase, phaseLevel, simpleStep_low_eq]
  exact ⟨fun hw => by rw [if_pos hw], fun hw => by rw [if_neg hw]⟩
end

section
/-!
A bit of a frame: what the step stores and how a frame completes, in the spec's numbers (40_receive.md R114, R116 and
R118 to R124). Each step has one lemma for an `INVALID` width and one for a bit.
-/
namespace Sys2Proof.Machine

open Sys2Proof.Safety Sys2Proof.Claims

/-! The accumulators (00_scope.md R16): a field narrower than its register is cut to its width before and after. -/

theorem shlIn_eq_ofNat {n : Nat} (acc : BitVec n) (b : Bool) :
    shlIn acc b = BitVec.ofNat n (2 * acc.toNat + b.toNat) :=
  BitVec.eq_of_toNat_eq (by rw [toNat_shlIn, BitVec.toNat_ofNat])

theorem setWidth_shlIn_setWidth {n : Nat} (m : Nat) (acc : BitVec n) (b : Bool) :
    (shlIn (acc.setWidth m) b).setWidth n = BitVec.ofNat n ((2 * acc.toNat + b.toNat) % 2 ^ m) :=
  BitVec.eq_of_toNat_eq (by
    rw [BitVec.toNat_setWidth, toNat_shlIn, BitVec.toNat_setWidth, BitVec.toNat_ofNat, Nat.add_mod, Nat.mul_mod_mod,
      ← Nat.add_mod])

theorem shrIn_eq_ofNat (acc : BitVec 4) (b : Bool) : shrIn acc b = BitVec.ofNat 4 (acc.toNat / 2 + 8 * b.toNat) := by
  rw [← BitVec.setWidth_eq (shrIn acc b), ← BitVec.ofNat_toNat, toNat_shrIn_succ, Nat.mul_comm]
  rfl

theorem setWidth_shrIn_setWidth {n : Nat} (acc : BitVec n) (b : Bool) :
    (shrIn (acc.setWidth 4) b).setWidth n = BitVec.ofNat n (acc.toNat % 16 / 2 + 8 * b.toNat) := by
  rw [← BitVec.ofNat_toNat, toNat_shrIn_succ, BitVec.toNat_setWidth, Nat.mul_comm]
  rfl

theorem bitIn_eq_ofNat (n : Nat) (b : Bool) : bitIn n b = BitVec.ofNat n b.toNat :=
  BitVec.eq_of_toNat_eq (by rw [toNat_bitIn, BitVec.toNat_ofNat])

/-! A half-symbol of a Simple frame (R116, R118). -/

theorem simpleCommit_eq_stores (n : Nat) (rx : Decoder) :
    (if (n : Int) % 2 = 1 then simpleCommit n rx else rx) = simpleStores n rx := by
  have hodd : (n : Int) % 2 = 1 ↔ ¬n % 2 = 0 := by omega
  have hsender : (n : Int) / 2 < 4 ↔ n < 8 := by omega
  have hrecipient : (n : Int) / 2 < 8 ↔ n < 16 := by omega
  simp only [simpleCommit, simpleStores, hodd, hsender, hrecipient, ite_not, setWidth_shrIn_setWidth]
  simp only [shrIn_eq_ofNat]

theorem simpleComplete_eq (s : State) :
    simpleComplete s =
      { s with
        rx := idleDecoder
        out :=
          if s.rx.command.toNat % 16 = 14 ∨ s.rx.command.toNat % 16 = 6 then
            { outcome := .complete
              msg :=
                some (.simple (BitVec.ofNat 4 s.rx.sender.toNat) s.rx.recipient
                  (decide (s.rx.command.toNat % 16 = 14)))
              dispatched := s.hslotSimple }
          else { outcome := .completeSilent } } := by
  have hon : s.rx.command.setWidth 4 = 14 ↔ s.rx.command.toNat % 16 = 14 := by
    rw [← BitVec.toNat_inj, BitVec.toNat_setWidth]
    rfl
  have hoff : s.rx.command.setWidth 4 = 6 ↔ s.rx.command.toNat % 16 = 6 := by
    rw [← BitVec.toNat_inj, BitVec.toNat_setWidth]
    rfl
  simp only [simpleComplete, hon, hoff, BitVec.ofNat_toNat]
  split_ifs with hmessage <;> rfl

section
variable {w : Micros} {s : State} {n : Nat} {v : Bool}

theorem simpleHalf_invalid (hn : s.rx.bitcount.toNat = n) (hle : n ≤ 24) (hw : ∀ v, ¬simpleReads w n v) :
    simpleHalf w s = abort .abortWindow s := by
  simp only [simpleHalf, count_eq_of_toNat hn (by omega), simpleVal_eq_none_iff.mpr hw]

theorem simpleHalf_reads (hn : s.rx.bitcount.toNat = n) (hle : n ≤ 24) (hw : simpleReads w n v) :
    simpleHalf w s =
      (let s' := setRx { simpleStores n s.rx with prevbit := v, bitcount := BitVec.ofNat 8 (n + 1) } s
       if n = 24 then simpleComplete s' else label .progress s') := by
  have hend : (n : Int) + 1 = protocol.endSimple ↔ n = 24 := by simp only [protocol]; omega
  simp only [simpleHalf, count_eq_of_toNat hn (by omega), simpleVal_eq_some_iff.mpr hw, simpleCommit_eq_stores,
    bitcount_succ _ n hn, hend]

end

/-- The pulse after a preamble (R114): an accepted High pulse that is no latch is half-symbol 0 of a Simple frame. -/
theorem syncStep_eq (w : Micros) (l : Level) (s : State) :
    syncStep w l s =
      if l = .high ∧ within w 200 350 then
        { s with rx := { s.rx with stage := .latchSeen, variant := .advanced }, out := { outcome := .progress } }
      else if l = .high ∧ ∃ v, simpleReads w 0 v then
        simpleHalf w (setRx { s.rx with stage := .inData, variant := .simple } s)
      else { s with rx := idleDecoder, out := { outcome := .abortWindow } } := by
  have hreads : (simpleVal w 0).isSome = true ↔ ∃ v, simpleReads w 0 v := by
    rw [Option.isSome_iff_exists]
    exact exists_congr fun v => simpleVal_eq_some_iff
  simp only [syncStep, inWindow_iff, hreads]
  rfl

/-! A half-symbol of an Advanced frame (R119 to R122). -/

theorem advCommit_eq_stores (n : Nat) (rx : Decoder) :
    (if (n : Int) % 2 = 1 then advCommit n rx.prevbit rx else rx) = advStores n rx := by
  have hodd : (n : Int) % 2 = 1 ↔ ¬n % 2 = 0 := by omega
  have hsender : (n : Int) ≤ 51 ↔ n ≤ 51 := by omega
  have hgroup : (n : Int) = 53 ↔ n = 53 := by omega
  have hcommand : (n : Int) = 55 ↔ n = 55 := by omega
  simp only [advCommit, advStores, hodd, hsender, hgroup, hcommand, ite_not, shlIn_eq_ofNat, bitIn_eq_ofNat]

theorem advComplete_eq (s : State) :
    advComplete s =
      { s with
        rx := idleDecoder
        out :=
          { outcome := .complete
            msg :=
              some (.advanced s.rx.sender s.rx.recipient (decide (s.rx.command.toNat % 2 = 1)) s.rx.group)
            dispatched := s.hslotAdvanced } } := by
  have hcommand : s.rx.command.getLsbD 0 = decide (s.rx.command.toNat % 2 = 1) := by
    rw [BitVec.getLsbD, Nat.testBit_zero]
  rw [advComplete, hcommand]
  rfl

section
variable {w : Micros} {s : State} {n : Nat} {v : Bool}

theorem advStep_invalid (hw : ∀ v, ¬advReads w v) : advStep w s = abort .abortWindow s := by
  simp only [advStep, advVal_eq_none_iff.mpr hw]

theorem advStep_parity (hn : s.rx.bitcount.toNat = n) (hle : n ≤ 63) (hw : advReads w v) (hodd : n % 2 = 1)
    (hprev : v = s.rx.prevbit) : advStep w s = abort .abortParity s := by
  have hodd' : (n : Int) % 2 = 1 := by omega
  simp only [advStep, count_eq_of_toNat hn (by omega), advVal_eq_some_iff.mpr hw, if_pos (And.intro hodd' hprev)]

theorem advStep_reads (hn : s.rx.bitcount.toNat = n) (hle : n ≤ 63) (hw : advReads w v)
    (hparity : ¬(n % 2 = 1 ∧ v = s.rx.prevbit)) :
    advStep w s =
      (let s' := setRx { advStores n s.rx with prevbit := v, bitcount := BitVec.ofNat 8 (n + 1) } s
       if n = 63 then advComplete s' else label .progress s') := by
  have hparity' : ¬((n : Int) % 2 = 1 ∧ v = s.rx.prevbit) := fun ⟨hodd, hprev⟩ => hparity ⟨by omega, hprev⟩
  have hend : (n : Int) + 1 = protocol.endAdvanced ↔ n = 63 := by simp only [protocol]; omega
  simp only [advStep, count_eq_of_toNat hn (by omega), advVal_eq_some_iff.mpr hw, if_neg hparity', advCommit_eq_stores,
    bitcount_succ _ n hn, hend]

end

/-! A bit of a BBSB2011 frame (R123, R124). -/

theorem bbsbStore_eq_stores (k : Nat) (v : Bool) (rx : Decoder) : bbsbStore k v rx = bbsbStores k v rx := by
  have hsender : (k : Int) ≤ 16 ↔ k ≤ 16 := by omega
  have hcommand : (k : Int) ≤ 21 ↔ k ≤ 21 := by omega
  have hrecipient : (k : Int) ≤ 24 ↔ k ≤ 24 := by omega
  simp only [bbsbStore, bbsbStores, hsender, hcommand, hrecipient, setWidth_shlIn_setWidth]
  simp only [shlIn_eq_ofNat, Nat.reducePow]

theorem bbsbComplete_eq (s : State) :
    bbsbComplete s =
      { s with
        rx := idleDecoder
        out :=
          if s.rx.command = 0x14 ∨ s.rx.command = 0x15 then
            { outcome := .complete
              msg :=
                some (.bbsb2011 (BitVec.ofNat 16 s.rx.sender.toNat)
                  (BitVec.ofNat 3 (remapFormula (s.rx.recipient.toNat % 8)))
                  (decide (s.rx.command = 0x15))
                  (decide (remapFormula (s.rx.recipient.toNat % 8) = 1)))
              dispatched := s.hslotBbsb }
          else { outcome := .completeSilent } } := by
  have hremap : remapFormula (s.rx.recipient.toNat % 8) = (bbsbRemap (s.rx.recipient.setWidth 3)).toNat := by
    rw [toNat_bbsbRemap, BitVec.toNat_setWidth]
  have hgroup (r : BitVec 3) : r.toNat = 1 ↔ r = 1 := BitVec.toNat_inj (y := 1)
  simp only [bbsbComplete, hremap, hgroup, BitVec.ofNat_toNat, BitVec.setWidth_eq]
  split_ifs with hmessage <;> rfl

section
variable {w : Micros} {s : State} {k : Nat} {v : Bool}

theorem bbsbStep_invalid (hw : ∀ v, ¬bbsbReads w v) : bbsbStep w s = abort .abortWindow s := by
  simp only [bbsbStep, bbsbVal_eq_none_iff.mpr hw]

theorem bbsbStep_reads (hk : s.rx.bitcount.toNat + 1 = k) (hle : k ≤ 25) (hw : bbsbReads w v) :
    bbsbStep w s =
      (let s' := setRx { bbsbStores k v s.rx with stage := .inData, bitcount := BitVec.ofNat 8 k } s
       if k = 25 then bbsbComplete s' else label .progress s') := by
  subst hk
  have hcount : s.rx.count + 1 = ((s.rx.bitcount.toNat + 1 : Nat) : Int) := by
    rw [count_eq_of_toNat rfl (by omega), Nat.cast_succ]
  have hend : ((s.rx.bitcount.toNat + 1 : Nat) : Int) = protocol.endBbsb ↔ s.rx.bitcount.toNat + 1 = 25 := by
    rw [Nat.cast_inj]
    rfl
  simp only [bbsbStep, bbsbVal_eq_some_iff.mpr hw, hcount, bbsbStore_eq_stores, bitcount_succ _ _ rfl, hend]

end

end Sys2Proof.Machine

open Sys2Proof.Machine

/-- Settles O30: a High phase is `simpleHalf`; half-symbol 24 stores nothing, so the message is of the fields before. -/
theorem simpleHalfSymbol : Obligations.SimpleHalfSymbol := by
  intro s w n hcase hn hle
  have hexec : exec (.edge w .falling) s = .next (simpleHalf w s) := exec_edge_simple hcase
  rw [hexec]
  refine ⟨fun hw => ?_, fun v hw hlt => ?_, fun v hw hend => ?_⟩
  · rw [simpleHalf_invalid hn hle hw, abort_eq]
  · rw [simpleHalf_reads hn hle hw, if_neg hlt.ne]
    rfl
  · rw [simpleHalf_reads hn hle hw, if_pos hend, simpleComplete_eq]
    subst hend
    rfl

/-- Settles O27: in the Simple case the pulse is half-symbol 0, which stores nothing but itself. -/
theorem pulseAfterPreambleSelectsVariant : Obligations.PulseAfterPreambleSelectsVariant := by
  intro s w p hcase hcount
  simp only [exec_edge_sync hcase, syncStep_eq, phaseLevel_eq_high]
  refine ⟨fun hp hw => ?_, fun hp hw v hv => ?_, fun h => ?_⟩
  · rw [if_pos ⟨hp, hw⟩]
  · have hn : (setRx { s.rx with stage := .inData, variant := .simple } s).rx.bitcount.toNat = 0 := by simp [hcount]
    rw [if_neg fun h => hw h.2, if_pos ⟨hp, v, hv⟩, simpleHalf_reads hn (by omega) hv]
    rfl
  · obtain rfl | ⟨hlatch, hv⟩ := h
    · rfl
    · rw [if_neg fun h => hlatch h.2, if_neg fun ⟨_, v, h⟩ => hv v h]

/-- Settles O31: half-symbol 63 stores the last recipient bit before the message is read. -/
theorem advancedHalfSymbol : Obligations.AdvancedHalfSymbol := by
  intro s w p n hcase hn hle
  rw [exec_edge_advanced hcase]
  refine ⟨fun hw => ?_, fun v hw hodd hprev => ?_, fun v hw hparity hlt => ?_, fun v hw hne hend => ?_⟩
  · rw [advStep_invalid hw, abort_eq]
  · rw [advStep_parity hn hle hw hodd hprev, abort_eq]
  · rw [advStep_reads hn hle hw hparity, if_neg hlt.ne]
    rfl
  · rw [advStep_reads hn hle hw (fun h => hne h.2), if_pos hend, advComplete_eq]
    subst hend
    rfl

/-- Settles O32: bit 25 is stored nowhere, so the message is of the fields before. -/
theorem bbsbBit : Obligations.BbsbBit := by
  intro s w p k hcase hk hle
  rw [exec_edge_bbsb hcase]
  refine ⟨fun hw => ?_, fun v hw hlt => ?_, fun v hw hend => ?_⟩
  · rw [bbsbStep_invalid hw, abort_eq]
  · rw [bbsbStep_reads hk hle hw, if_neg hlt.ne]
    rfl
  · rw [bbsbStep_reads hk hle hw, if_pos hend, bbsbComplete_eq]
    subst hend
    rfl
end

section
/-!
What an `EDGE` puts out (40_receive.md R127, R130; 10_state.md R51): a bare label, an abort, or the message of a
completed frame with the decision to call its handler.
-/
namespace Sys2Proof.Machine

open Sys2Proof.Claims

/-- The three kinds of answer of an `EDGE`, each with all it says of the outputs. -/
inductive EdgeAnswer (s t : State) : Prop
  /-- A label that is neither a framing error nor `COMPLETE`, and nothing more. -/
  | quiet (c : Label) (hc : c.isAbort = false ∧ c ≠ .complete) (hout : t.out = { outcome := c })
  /-- `abort(c)` of the state before. -/
  | aborted (c : Label) (hc : c.isAbort = true) (ht : t = abort c s)
  /-- A message, with the slot of its variant. -/
  | completed (m : Message)
      (hout : t.out = { outcome := .complete, msg := some m, dispatched := s.slot m.variant })

/-! The cases of the decoder. Only the decoder registers are written before an answer, and an answer does not depend on
them. -/

theorem EdgeAnswer.of_setRx {rx : Decoder} {s t : State} : EdgeAnswer (setRx rx s) t → EdgeAnswer s t
  | .quiet c hc hout => .quiet c hc hout
  | .aborted c hc ht => .aborted c hc ht
  | .completed m hout => .completed m hout

theorem edgeAnswer_progress (s t : State) : EdgeAnswer s (label .progress t) := .quiet .progress (by decide) rfl

theorem edgeAnswer_abortWindow (s : State) : EdgeAnswer s (abort .abortWindow s) := .aborted .abortWindow rfl rfl

theorem idleStep_answer (w : Micros) (l : Level) (s : State) : EdgeAnswer s (idleStep w l s) := by
  unfold idleStep
  split_ifs
  · exact edgeAnswer_progress s _
  · exact edgeAnswer_progress s _
  · exact .quiet .ignored (by decide) rfl

theorem simpleComplete_answer (s : State) : EdgeAnswer s (simpleComplete s) := by
  unfold simpleComplete
  dsimp only
  split
  · exact .completed _ rfl
  · exact .quiet .completeSilent (by decide) rfl

theorem advComplete_answer (s : State) : EdgeAnswer s (advComplete s) := .completed _ rfl

theorem bbsbComplete_answer (s : State) : EdgeAnswer s (bbsbComplete s) := by
  unfold bbsbComplete
  dsimp only
  split
  · exact .completed _ rfl
  · exact .quiet .completeSilent (by decide) rfl

theorem simpleHalf_answer (w : Micros) (s : State) : EdgeAnswer s (simpleHalf w s) := by
  obtain ⟨-, h⟩ | ⟨v, -, ⟨-, h⟩ | ⟨-, h⟩⟩ := simpleHalf_cases w s <;> rw [h]
  · exact edgeAnswer_abortWindow s
  · exact (simpleComplete_answer _).of_setRx
  · exact edgeAnswer_progress s _

theorem simpleStep_answer (w : Micros) (l : Level) (s : State) : EdgeAnswer s (simpleStep w l s) := by
  unfold simpleStep
  split
  · exact simpleHalf_answer w s
  · split
    · exact edgeAnswer_progress s _
    · exact edgeAnswer_abortWindow s

theorem syncStep_answer (w : Micros) (l : Level) (s : State) : EdgeAnswer s (syncStep w l s) := by
  unfold syncStep
  split_ifs
  · exact edgeAnswer_progress s _
  · exact (simpleHalf_answer w _).of_setRx
  · exact edgeAnswer_abortWindow s

theorem latchStep_answer (w : Micros) (l : Level) (s : State) : EdgeAnswer s (latchStep w l s) := by
  unfold latchStep
  split
  · exact edgeAnswer_progress s _
  · exact edgeAnswer_abortWindow s

theorem advStep_answer (w : Micros) (s : State) : EdgeAnswer s (advStep w s) := by
  obtain ⟨-, h⟩ | ⟨v, -, ⟨-, -, h⟩ | ⟨-, ⟨-, h⟩ | ⟨-, h⟩⟩⟩ := advStep_cases w s <;> rw [h]
  · exact edgeAnswer_abortWindow s
  · exact .aborted .abortParity rfl rfl
  · exact (advComplete_answer _).of_setRx
  · exact edgeAnswer_progress s _

theorem bbsbStep_answer (w : Micros) (s : State) : EdgeAnswer s (bbsbStep w s) := by
  obtain ⟨-, h⟩ | ⟨v, -, ⟨-, h⟩ | ⟨-, h⟩⟩ := bbsbStep_cases w s <;> rw [h]
  · exact edgeAnswer_abortWindow s
  · exact (bbsbComplete_answer _).of_setRx
  · exact edgeAnswer_progress s _

/-- Every `EDGE` that has a next state gives one of the three answers. -/
theorem exec_edge_answer {w : Micros} {p : Polarity} {s t : State} (h : exec (.edge w p) s = .next t) :
    EdgeAnswer s t := by
  obtain ⟨-, rfl⟩ | ⟨-, h⟩ := execEdge_next h
  · exact .quiet .ignored (by decide) rfl
  obtain ⟨-, -, rfl⟩ | ⟨-, -, rfl⟩ | ⟨-, -, rfl⟩ | ⟨-, -, rfl⟩ | ⟨-, -, rfl⟩ | ⟨-, -, rfl⟩ := decodeEdge_next h
  · exact idleStep_answer w _ s
  · exact syncStep_answer w _ s
  · exact latchStep_answer w _ s
  · exact simpleStep_answer w _ s
  · exact advStep_answer w s
  · exact bbsbStep_answer w s

/-- No other operation puts out a message or calls a handler (10_state.md R51). -/
theorem exec_no_message {i : Instr} {s t : State} (hi : isEdge i = false) (h : exec i s = .next t) :
    t.out.msg = none ∧ t.out.dispatched = false := by
  cases i with
  | edge => cases hi
  | tick =>
    obtain ⟨-, rfl⟩ | ⟨-, -, -, rfl⟩ | ⟨-, -, -, rfl⟩ | ⟨-, -, rfl⟩ := tickWith_next h <;> exact ⟨rfl, rfl⟩
  | init | regs | rega | regb | sends | senda | sendb => cases h; exact ⟨rfl, rfl⟩

theorem isEdge_iff {i : Instr} : isEdge i = true ↔ ∃ w p, i = .edge w p := by cases i <;> simp [isEdge]

/-- R130 in one sentence: a step puts out no message and calls no handler, or it is an `EDGE` that completes a frame. -/
theorem exec_message {i : Instr} {s t : State} (h : exec i s = .next t) :
    (t.out.msg = none ∧ t.out.dispatched = false ∧ ¬(isEdge i = true ∧ t.out.outcome = .complete)) ∨
    ∃ m, isEdge i = true ∧ t.out = { outcome := .complete, msg := some m, dispatched := s.slot m.variant } := by
  by_cases hi : isEdge i = true
  · obtain ⟨w, p, rfl⟩ := isEdge_iff.mp hi
    cases exec_edge_answer h with
    | quiet c hc hout => exact .inl (by simp [hout, hc])
    | aborted c hc ht =>
      subst ht
      exact .inl ⟨rfl, rfl, by rintro ⟨-, rfl : c = .complete⟩; cases hc⟩
    | completed m hout => exact .inr ⟨m, rfl, hout⟩
  · obtain ⟨hmsg, hdispatched⟩ := exec_no_message (Bool.eq_false_iff.mpr hi) h
    exact .inl ⟨hmsg, hdispatched, fun hc => hi hc.1⟩

end Sys2Proof.Machine

open Sys2Proof.Machine

/-- Settles O34: of the three answers of an `EDGE`, only the abort has a label of a framing error. -/
theorem abortIsTotalReset : Obligations.AbortIsTotalReset := by
  intro w p s t h hlabel
  have habort : t.out.outcome.isAbort = true := by obtain h | h := hlabel <;> rw [h] <;> rfl
  cases exec_edge_answer h with
  | quiet c hc hout => simp [hout, hc] at habort
  | aborted c hc ht =>
    subst ht
    rfl
  | completed m hout => simp [hout, Label.isAbort] at habort

/-- Settles O37: `exec_message`, read off for each variant of the message. -/
theorem dispatchFollowsHandlerSlot : Obligations.DispatchFollowsHandlerSlot := by
  intro i s t h
  obtain ⟨hmsg, hdispatched, hnot⟩ | ⟨m, hi, hout⟩ := exec_message h
  · simp [hmsg, hdispatched, hnot]
  · rw [hout]
    refine ⟨by simp [hi], nofun, fun a b c hm => ?_, fun a b c d hm => ?_, fun a b c d hm => ?_⟩ <;> cases hm <;> rfl
end

section
/-!
The schedules phase by phase (41_transmit.md R156 to R158): the bit of a frame that a place names, and the phases that
send it, in the spec's numbers.
-/
namespace Sys2Proof.Machine

variable {j : Job} {k p : Nat}

theorem sched_get_simple (hj : j.variant = .simple) (hp : p < 50) : (sched j)[p]? = some (simplePhase j p) := by
  rw [sched_get j p (by rwa [hj]), phaseAt, hj]

theorem sched_get_advanced (hj : j.variant = .advanced) (hp : p < 68) : (sched j)[p]? = some (advPhase j p) := by
  rw [sched_get j p (by rwa [hj]), phaseAt, hj]

theorem sched_get_bbsb (hj : j.variant = .bbsb) (hp : p < 26) : (sched j)[p]? = some (bbsbPhase j p) := by
  rw [sched_get j p (by rwa [hj]), phaseAt, hj]

/-! A Simple frame (R156): twelve bits of two slots each, and a last slot. -/

theorem simpleBit_sender (h : k < 4) : simpleBit j k = j.sender.getLsbD k := if_pos h

theorem simpleBit_recipient (hlo : 4 ≤ k) (hhi : k < 8) : simpleBit j k = j.recipient.getLsbD (k - 4) :=
  (if_neg hlo.not_gt).trans (if_pos hhi)

theorem simpleBit_command (h : 8 ≤ k) : simpleBit j k = j.command.getLsbD (k - 8) :=
  (if_neg (by omega)).trans (if_neg h.not_gt)

/-- The first slot of a bit is long for 1. -/
theorem simpleHigh_even (h : k < 12) : simpleHigh j (2 * k) = if simpleBit j k then 1125 else 375 := by
  have hslot : 2 * k % 2 = 0 ∧ 2 * k < 24 := by omega
  have hbit : 2 * k / 2 = k := by omega
  simp only [simpleHigh, hslot, hbit, true_and, protocol]

/-- The second slot of a bit is short. -/
theorem simpleHigh_odd : simpleHigh j (2 * k + 1) = 375 := if_neg (by omega)

theorem simpleHigh_last : simpleHigh j 24 = 375 := if_neg (by omega)

theorem simplePhase_slot (s : Nat) : simplePhase j (2 * s + 1) = ⟨.high, simpleHigh j s⟩ := by
  have hodd : (2 * s + 1) % 2 = 1 := by omega
  have hslot : (2 * s + 1) / 2 = s := by omega
  simp only [simplePhase, hodd, hslot, Nat.succ_ne_zero, if_true, if_false]

/-- A slot and the gap after it last 1500 µs together. -/
theorem simplePhase_gap (s : Nat) : simplePhase j (2 * s + 2) = ⟨.low, 1500 - simpleHigh j s⟩ := by
  have heven : ¬(2 * s + 2) % 2 = 1 := by omega
  have hslot : (2 * s + 2) / 2 - 1 = s := by omega
  simp only [simplePhase, heven, hslot, Nat.succ_ne_zero, if_false, protocol]

/-! An Advanced frame (R157): three phases, then 32 bits, each followed by its inverse, then the stop pulse. -/

theorem advBit_sender (h : k < 26) : advBit j k = j.sender.getLsbD (25 - k) := if_pos h

theorem advBit_recipient (h : 28 ≤ k) : advBit j k = j.recipient.getLsbD (31 - k) := by
  rw [advBit, if_neg (by omega), if_neg (by omega), if_neg (by omega)]

/-- Half-symbol `i` of the 64. -/
theorem advPhase_half {i : Nat} (h : i < 64) :
    advPhase j (i + 3) = ⟨if i % 2 = 0 then .high else .low, if advHalf j i then 1180 else 275⟩ := by
  rw [advPhase, if_neg (by omega), if_neg (by omega), if_neg (by omega), if_pos (by omega), Nat.add_sub_cancel]
  rfl

theorem advHalf_even : advHalf j (2 * k) = advBit j k := by
  rw [advHalf, if_pos (by omega), Nat.mul_div_cancel_left k Nat.two_pos]

theorem advHalf_odd : advHalf j (2 * k + 1) = !(advBit j k) := by
  rw [advHalf, if_neg (by omega), Nat.mul_add_div Nat.two_pos]
  rfl

theorem advPhase_bit (h : k < 32) : advPhase j (3 + 2 * k) = ⟨.high, if advBit j k then 1180 else 275⟩ := by
  rw [Nat.add_comm, advPhase_half (by omega), advHalf_even, if_pos (by omega)]

theorem advPhase_inverse (h : k < 32) : advPhase j (4 + 2 * k) = ⟨.low, if advBit j k then 275 else 1180⟩ := by
  have hplace : 4 + 2 * k = (2 * k + 1) + 3 := by omega
  rw [hplace, advPhase_half (by omega), advHalf_odd, if_neg (by omega)]
  cases advBit j k <;> rfl

/-! A BBSB2011 frame (R158): one phase a bit. -/

theorem bbsbBit_sender (h : k < 16) : bbsbBit j k = j.sender.getLsbD (15 - k) := if_pos h

theorem bbsbBit_command (hlo : 16 ≤ k) (hhi : k < 21) : bbsbBit j k = j.command.getLsbD (20 - k) :=
  (if_neg hlo.not_gt).trans (if_pos hhi)

theorem bbsbBit_recipient (hlo : 21 ≤ k) (hhi : k < 24) : bbsbBit j k = j.recipient.getLsbD (23 - k) := by
  rw [bbsbBit, if_neg (by omega), if_neg (by omega), if_pos hhi]

theorem bbsbPhase_bit :
    bbsbPhase j (1 + k) = ⟨if k % 2 = 0 then .high else .low, if bbsbBit j k then 900 else 300⟩ := by
  rw [bbsbPhase, if_neg (by omega), Nat.add_sub_cancel_left]
  rfl

end Sys2Proof.Machine

open Sys2Proof.Machine

/-- Settles O46: bit `k` has slots `2 * k` and `2 * k + 1`, and slot `s` is phase `2 * s + 1` with its gap after it. -/
theorem simpleScheduleContents : Obligations.SimpleScheduleContents := by
  intro j hj
  have hget (p : Nat) (hp : p < 50) := sched_get_simple hj hp
  refine ⟨by rw [sched_length, hj]; rfl, hget 0 (by omega), ?_, fun k b hb => ?_⟩
  · rw [hget 49 (by omega), simplePhase_slot 24, simpleHigh_last]
  have hk : k < 12 := by omega
  have hbit : simpleBit j k = b := by
    obtain ⟨h, rfl⟩ | ⟨hlo, hhi, rfl⟩ | ⟨h, -, rfl⟩ := hb
    · exact simpleBit_sender h
    · exact simpleBit_recipient hlo hhi
    · exact simpleBit_command h
  have hfirst : simpleHigh j (2 * k) = if b then 1125 else 375 := by rw [simpleHigh_even hk, hbit]
  have hplace (i : Nat) : 4 * k + i = 2 * (2 * k) + i := by omega
  have hplace' (i : Nat) : 4 * k + (i + 2) = 2 * (2 * k + 1) + i := by omega
  refine ⟨?_, ?_, ?_, ?_⟩ <;> rw [hget _ (by omega)]
  · rw [hplace, simplePhase_slot, hfirst]
  · rw [hplace, simplePhase_gap, hfirst]
    cases b <;> rfl
  · rw [hplace' 1, simplePhase_slot, simpleHigh_odd]
  · rw [hplace' 2, simplePhase_gap, simpleHigh_odd]

/-- Settles O47: bit `k` has half-symbols `2 * k` and `2 * k + 1`, and half-symbol `i` is phase `i + 3`. -/
theorem advancedScheduleContents : Obligations.AdvancedScheduleContents := by
  intro j hj
  have hget (p : Nat) (hp : p < 68) := sched_get_advanced hj hp
  refine ⟨by rw [sched_length, hj]; rfl, hget 0 (by omega), hget 1 (by omega), hget 2 (by omega), hget 67 (by omega),
    fun k b hb => ?_⟩
  have hk : k < 32 := by omega
  have hbit : advBit j k = b := by
    obtain ⟨h, rfl⟩ | ⟨rfl, rfl⟩ | ⟨rfl, rfl⟩ | ⟨h, -, rfl⟩ := hb
    · exact advBit_sender h
    · rfl
    · rfl
    · exact advBit_recipient h
  subst hbit
  rw [hget _ (by omega), hget _ (by omega), advPhase_bit hk, advPhase_inverse hk]
  exact ⟨rfl, rfl⟩

/-- Settles O48: bit `k` is phase `1 + k`, and bit 24 is the trailing 0. -/
theorem bbsbScheduleContents : Obligations.BbsbScheduleContents := by
  intro j hj
  have hget (p : Nat) (hp : p < 26) := sched_get_bbsb hj hp
  refine ⟨by rw [sched_length, hj]; rfl, hget 0 (by omega), hget 25 (by omega), fun k b hb => ?_⟩
  have hbit : Sys2Proof.Machine.bbsbBit j k = b := by
    obtain ⟨h, rfl⟩ | ⟨hlo, hhi, rfl⟩ | ⟨hlo, hhi, rfl⟩ := hb
    · exact bbsbBit_sender h
    · exact bbsbBit_command hlo hhi
    · exact bbsbBit_recipient hlo hhi
  rw [hget _ (by omega), bbsbPhase_bit, hbit]
end

section
/-!
The transmit sequencer (41_transmit.md R150 to R154, R159 to R161): what a `SEND*` loads, and the answers of a
`TICK`.
-/
namespace Sys2Proof.Machine

open Sys2Proof.Claims

/-! What a `SEND*` loads, in the spec's numbers. -/

theorem bitIn_five_eq (b : Bool) : bitIn 5 b = if b then 1 else 0 := by cases b <;> rfl

theorem bbsbCommand_eq (on : Bool) : bbsbCommand on = if on then 0x15 else 0x14 := by cases on <;> rfl

/-- The recipient register takes the code of R154 at its own width. -/
theorem setWidth_bbsbSendCode (r : BitVec 3) (g : Bool) :
    (bbsbSendCode r g).setWidth 4 = BitVec.ofNat 4 (sendFormula r.toNat g) := by
  rw [← toNat_bbsbSendCode, BitVec.ofNat_toNat]

/-! The answers of a `TICK`. -/

/-- `advanceTo`, with the phase it begins read from the schedule of the job before it. -/
theorem advanceTo_of_get {s : State} {n d : Nat} {lvl : Level} (rep : BitVec 16)
    (h : (sched s.tx)[n]? = some ⟨lvl, d⟩) :
    advanceTo n rep s =
      { s with
        line := lvl
        tx := { s.tx with pos := BitVec.ofNat 8 n, repeats := rep, pulse := BitVec.ofNat 32 d }
        out := { interval := some (BitVec.ofNat 32 d) } } := by
  obtain ⟨-, hphase⟩ := sched_get_eq_some.mp h
  simp only [advanceTo_eq, phaseAt_place, hphase]

section
variable {s : State}

theorem exec_tick_not_sending (h : s.mode ≠ .sending) : exec .tick s = .next (label .none s) := if_neg h

theorem exec_tick_sending (h : s.mode = .sending) :
    exec .tick s =
      if s.tx.pos.toNat + 1 = (sched s.tx).length then
        if s.tx.repeats.toNat + 1 = Config.pRepeat then .next (endJob s)
        else .next (advanceTo 0 (s.tx.repeats + 1) s)
      else if s.tx.pos.toNat + 1 < (sched s.tx).length then .next (advanceTo (s.tx.pos.toNat + 1) s.tx.repeats s)
      else .refused .unreachableJobState := by
  rw [sched_length]
  exact if_pos h

end

theorem repeats_succ (r : BitVec 16) : r + 1 = BitVec.ofNat 16 (r.toNat + 1) := by
  rw [BitVec.ofNat_add, BitVec.ofNat_toNat, BitVec.setWidth_eq]
  rfl

end Sys2Proof.Machine

open Sys2Proof.Machine

/-- Settles O39: `begin_send` with Simple's fields. -/
theorem sendsStartsJob : Obligations.SendsStartsJob := by
  intro s snd rcp on
  rw [BitVec.ofNat_toNat]
  rfl

/-- Settles O40: `begin_send` with Advanced's fields. -/
theorem sendaStartsJob : Obligations.SendaStartsJob := by
  intro s snd rcp cmd grp
  rw [← bitIn_five_eq]
  rfl

/-- Settles O41: `begin_send` with BBSB2011's fields, the recipient code by the formula of R154. -/
theorem sendbStartsJob : Obligations.SendbStartsJob := by
  intro s snd rcp on grp
  rw [BitVec.ofNat_toNat, ← setWidth_bbsbSendCode, ← bbsbCommand_eq]
  rfl

/-- Settles O42: one branch of `exec_tick_sending` a clause; a phase that the schedule has lies before its end. -/
theorem tickAdvancesSchedule : Obligations.TickAdvancesSchedule := by
  refine fun s lvl d => ⟨exec_tick_not_sending, fun hm hphase => ?_, fun hm hend hrep hphase => ?_,
    fun hm hend hrep => ?_⟩
  · obtain ⟨hlt, -⟩ := List.getElem?_eq_some_iff.mp hphase
    rw [exec_tick_sending hm, if_neg hlt.ne, if_pos hlt, advanceTo_of_get _ hphase]
  · rw [exec_tick_sending hm, if_pos hend, if_neg hrep, advanceTo_of_get _ hphase, repeats_succ]
    rfl
  · rw [exec_tick_sending hm, if_pos hend, if_pos hrep, endJob_eq]
end

section
/-!
The control operations (42_control.md R190 to R193). `INIT` is the composition of shared operations, each of which
replaces the whole of what it touches, so nothing of a frame or a job before it survives; a `REG*` is one slot and a bare
label.
-/
namespace Sys2Proof.Machine

/-- The outputs of a step that puts nothing out (10_state.md R51). -/
theorem label_none_eq (s : State) : label .none s = { s with out := {} } := rfl

theorem exec_init (s : State) :
    exec .init s = .next (toListening (setLine .low (totalReset (clearJob (label .none s))))) := rfl

section
variable (present : Bool) (s : State)

theorem exec_regs : exec (.regs present) s = .next { label .none s with hslotSimple := present } := rfl

theorem exec_rega : exec (.rega present) s = .next { label .none s with hslotAdvanced := present } := rfl

theorem exec_regb : exec (.regb present) s = .next { label .none s with hslotBbsb := present } := rfl

end

end Sys2Proof.Machine

open Sys2Proof.Machine

/-- Settles O54: the job and the decoder of `s` are replaced whole, and what is left is the line and the mode switch. -/
theorem initArmsReception : Obligations.InitArmsReception := by
  intro s
  rw [exec_init, label_none_eq, clearJob_eq, totalReset_eq]
  rfl

/-- Settles O55: an operation a slot, each the bare label with its own slot written. -/
theorem handlerRegistration : Obligations.HandlerRegistration := by
  intro s present
  rw [exec_regs, exec_rega, exec_regb, label_none_eq]
  exact ⟨rfl, rfl, rfl⟩
end

section
/-!
The reset state (70_reset_and_hazards.md R230). `State.reset` gives every field a literal, and `State.read` is one clause
a register, so what a register reads after reset is the code of its literal.
-/

open Sys2Proof.Machine

/-- Settles O12: one case a register of R20, and in each the literal of `State.reset` has the code 0. -/
theorem resetPutsEveryRegisterAtZero : Obligations.ResetPutsEveryRegisterAtZero := by
  intro r
  cases r <;> rfl
end

section
/-!
The encoder as arithmetic on words (30_encoding.md R82 to R87), and the assembler (R95, R96). A word is the sum of its
fields at their positions, so encoding and decoding are inverse by division with remainder.
-/
namespace Sys2Proof

open Laws

/-- A field above `n` bits is a multiple of `2 ^ n`. -/
theorem toNat_append_eq_add {m n : Nat} (x : BitVec m) (y : BitVec n) :
    (x ++ y).toNat = x.toNat * 2 ^ n + y.toNat := by
  rw [BitVec.toNat_append, ← Nat.shiftLeft_add_eq_or_of_lt y.isLt, Nat.shiftLeft_eq]

theorem toNat_bit1 (b : Bool) : (bit1 b).toNat = b.toNat := BitVec.toNat_ofBool b

theorem polarityOfBit_bitOfPolarity (p : Polarity) : polarityOfBit (bitOfPolarity p) = p := by cases p <;> rfl

theorem bitOfPolarity_polarityOfBit (b : Bool) : bitOfPolarity (polarityOfBit b) = b := by cases b <;> rfl

/-! The word of each operation as a number. -/

theorem toNat_encode_edge (width : Micros) (p : Polarity) :
    (encode (.edge width p)).toNat =
      0x1000000000000000 + (bitOfPolarity p).toNat * 2 ^ 32 + width.toNat := by
  rw [encode]
  simp only [toNat_append_eq_add, toNat_bit1, BitVec.toNat_ofNat]
  omega

/-- Format F-REG (R84): `op` and one flag. -/
theorem toNat_flagWord (op : BitVec 4) (present : Bool) :
    (op ++ 0#59 ++ bit1 present).toNat = op.toNat * 2 ^ 60 + present.toNat := by
  simp only [toNat_append_eq_add, toNat_bit1, BitVec.toNat_ofNat]
  omega

theorem toNat_encode_sends (snd rcp : BitVec 4) (on : Bool) :
    (encode (.sends snd rcp on)).toNat =
      0x7000000000000000 + on.toNat * 2 ^ 8 + rcp.toNat * 2 ^ 4 + snd.toNat := by
  rw [encode]
  simp only [toNat_append_eq_add, toNat_bit1, BitVec.toNat_ofNat]
  omega

theorem toNat_encode_senda (snd : BitVec 26) (rcp : BitVec 4) (cmd grp : Bool) :
    (encode (.senda snd rcp cmd grp)).toNat =
      0x8000000000000000 + grp.toNat * 2 ^ 31 + cmd.toNat * 2 ^ 30 + rcp.toNat * 2 ^ 26 + snd.toNat := by
  rw [encode]
  simp only [toNat_append_eq_add, toNat_bit1, BitVec.toNat_ofNat]
  omega

theorem toNat_encode_sendb (snd : BitVec 16) (rcp : BitVec 3) (on grp : Bool) :
    (encode (.sendb snd rcp on grp)).toNat =
      0x9000000000000000 + grp.toNat * 2 ^ 20 + on.toNat * 2 ^ 19 + rcp.toNat * 2 ^ 16 + snd.toNat := by
  rw [encode]
  simp only [toNat_append_eq_add, toNat_bit1, BitVec.toNat_ofNat]
  omega

theorem decode_encode (i : Instr) : decode (encode i) = .ok i := by
  cases i with
  | edge width p =>
    rw [decode_edge_of_toNat width _ (toNat_encode_edge width p), polarityOfBit_bitOfPolarity]
  | tick => exact decode_tick rfl
  | init => exact decode_init rfl
  | regs present => exact decode_regs_of_toNat present (toNat_flagWord _ present)
  | rega present => exact decode_rega_of_toNat present (toNat_flagWord _ present)
  | regb present => exact decode_regb_of_toNat present (toNat_flagWord _ present)
  | sends snd rcp on => exact decode_sends_of_toNat snd rcp on (toNat_encode_sends snd rcp on)
  | senda snd rcp cmd grp => exact decode_senda_of_toNat snd rcp cmd grp (toNat_encode_senda snd rcp cmd grp)
  | sendb snd rcp on grp => exact decode_sendb_of_toNat snd rcp on grp (toNat_encode_sendb snd rcp on grp)

/-! A word of a row is the row's pattern plus its operands. -/

theorem toNat_fieldAt (w : Word) (lo n : Nat) : (fieldAt w lo n).toNat = w.toNat / 2 ^ lo % 2 ^ n :=
  (fieldAt_eq_iff.mp rfl).symm

theorem toNat_bitAt (w : Word) (k : Nat) : (bitAt w k).toNat = w.toNat / 2 ^ k % 2 := (bitAt_eq_iff.mp rfl).symm

/-- A word of a flag row (R84). -/
theorem toNat_of_flagRow {r : OpRow} {w : Word} (hmask : r.mask = BitVec.allOnes 64 <<< 1) (hw : r.hits w = true) :
    w.toNat = r.pattern.toNat + (bitAt w 0).toNat := by
  have hupper := (r.hits_iff_upper 1 _ hmask rfl w).mp hw
  rw [toNat_bitAt]
  omega

/-- In each row the operands and the row's pattern make up the whole word. -/
theorem encode_of_decode {w : Word} {i : Instr} (h : decode w = .ok i) : encode i = w := by
  apply BitVec.eq_of_toNat_eq
  obtain ⟨hw, rfl⟩ | ⟨hw, rfl⟩ | ⟨hw, rfl⟩ | ⟨hw, rfl⟩ | ⟨hw, rfl⟩ | ⟨hw, rfl⟩ | ⟨hw, rfl⟩ | ⟨hw, rfl⟩ | ⟨hw, rfl⟩ :=
    decode_cases h
  · have hupper := (OpRow.hits_iff_upper 33 0x1000000000000000 rfl rfl w).mp hw
    rw [toNat_encode_edge, bitOfPolarity_polarityOfBit, toNat_fieldAt, toNat_bitAt]
    omega
  · have hupper := (OpRow.hits_iff_upper 0 (encode .tick).toNat rfl rfl w).mp hw
    omega
  · have hupper := (OpRow.hits_iff_upper 0 (encode .init).toNat rfl rfl w).mp hw
    omega
  · exact (toNat_flagWord 4 _).trans (toNat_of_flagRow rfl hw).symm
  · exact (toNat_flagWord 5 _).trans (toNat_of_flagRow rfl hw).symm
  · exact (toNat_flagWord 6 _).trans (toNat_of_flagRow rfl hw).symm
  · have hupper := (OpRow.hits_iff_upper 9 0x7000000000000000 rfl rfl w).mp hw
    simp only [toNat_encode_sends, toNat_fieldAt, toNat_bitAt]
    omega
  · have hupper := (OpRow.hits_iff_upper 32 0x8000000000000000 rfl rfl w).mp hw
    simp only [toNat_encode_senda, toNat_fieldAt, toNat_bitAt]
    omega
  · have hupper := (OpRow.hits_iff_upper 21 0x9000000000000000 rfl rfl w).mp hw
    simp only [toNat_encode_sendb, toNat_fieldAt, toNat_bitAt]
    omega

/-! The assembler (R95): a number that fits its field is the field's number. -/

open Machine

theorem fits_iff {n x : Nat} : fits n x = true ↔ x < 2 ^ n := decide_eq_true_iff

theorem asBit_toNat (b : Bool) : asBit b.toNat = b := by cases b <;> rfl

theorem toNat_asBit {x : Nat} (h : fits 1 x = true) : (asBit x).toNat = x := by
  rw [fits_iff] at h
  interval_cases x <;> rfl

theorem toNat_ofNat_of_fits {n x : Nat} (h : fits n x = true) : (BitVec.ofNat n x).toNat = x := by
  rw [BitVec.toNat_ofNat, Nat.mod_eq_of_lt (fits_iff.mp h)]

/-- Every operand of an operation fits its field. -/
theorem wellFormed_ofInstr (i : Instr) : (AsmLine.ofInstr i).wellFormed = true := by
  cases i with
  | edge width p => exact Fits.edge width p
  | tick => exact Fits.tick
  | init => exact Fits.init
  | regs present => exact Fits.regs present
  | rega present => exact Fits.rega present
  | regb present => exact Fits.regb present
  | sends snd rcp on => exact Fits.sends snd rcp on
  | senda snd rcp cmd grp => exact Fits.senda snd rcp cmd grp
  | sendb snd rcp on grp => exact Fits.sendb snd rcp on grp

theorem assemble_ofInstr (i : Instr) : assemble (AsmLine.ofInstr i) = some i := by
  refine (if_pos (wellFormed_ofInstr i)).trans ?_
  cases i <;> simp [AsmLine.ofInstr, asBit_toNat]

theorem assemble_illFormed {l : AsmLine} (h : l.wellFormed = false) : assemble l = none :=
  if_neg (by simp [h])

/-- A well-formed line is the `PHASE` abbreviation (R96) or the spelling of the operation it gives. -/
theorem assemble_wellFormed {l : AsmLine} (h : l.wellFormed = true) :
    (∃ lvl w, l = .phase lvl w ∧ assemble l = some (.edge (BitVec.ofNat 32 w) (edgeEnding lvl))) ∨
    ∃ i, assemble l = some i ∧ AsmLine.ofInstr i = l := by
  cases l with
  | phase lvl w => exact .inl ⟨lvl, w, rfl, if_pos h⟩
  | edge w p => exact .inr ⟨_, if_pos h, by rw [AsmLine.ofInstr, toNat_ofNat_of_fits h]⟩
  | tick => exact .inr ⟨.tick, rfl, rfl⟩
  | init => exact .inr ⟨.init, rfl, rfl⟩
  | regs p | rega p | regb p => exact .inr ⟨_, if_pos h, by rw [AsmLine.ofInstr, toNat_asBit h]⟩
  | sends snd rcp on =>
    have hfit := h
    simp only [AsmLine.wellFormed, Bool.and_eq_true] at hfit
    obtain ⟨⟨hsnd, hrcp⟩, hon⟩ := hfit
    exact .inr ⟨_, if_pos h, by
      rw [AsmLine.ofInstr, toNat_ofNat_of_fits hsnd, toNat_ofNat_of_fits hrcp, toNat_asBit hon]⟩
  | senda snd rcp cmd grp | sendb snd rcp cmd grp =>
    have hfit := h
    simp only [AsmLine.wellFormed, Bool.and_eq_true] at hfit
    obtain ⟨⟨⟨hsnd, hrcp⟩, hcmd⟩, hgrp⟩ := hfit
    exact .inr ⟨_, if_pos h, by
      rw [AsmLine.ofInstr, toNat_ofNat_of_fits hsnd, toNat_ofNat_of_fits hrcp, toNat_asBit hcmd, toNat_asBit hgrp]⟩

end Sys2Proof

open Sys2Proof

/-- Settles O3: the word is the sum of its fields, and each decoder reads its field back. -/
theorem decodeOfEncode : Obligations.DecodeOfEncode := decode_encode

/-- Settles O4: a word of a row is the row's pattern plus its operands, and so is the word of the operation. -/
theorem encodeOfDecode : Obligations.EncodeOfDecode := fun _ _ => encode_of_decode

/-- Settles O1: each word is its row's pattern plus the operands beside it. -/
theorem workedWordsDecode : Obligations.WorkedWordsDecode :=
  ⟨decode_edge_of_toNat 10000 true rfl, decode_edge_of_toNat 10000 false rfl, Laws.decode_tick rfl,
    Laws.decode_init rfl, decode_regs_of_toNat true rfl, decode_rega_of_toNat false rfl, decode_regb_of_toNat true rfl,
    decode_sends_of_toNat 5 10 true rfl, decode_senda_of_toNat 0x12345 3 true false rfl,
    decode_sendb_of_toNat 255 3 true false rfl⟩

/-- Settles O6: an operation's line is well-formed, and a well-formed line is a `PHASE` or the line of its operation. -/
theorem assemblerFitsOrFails : Obligations.AssemblerFitsOrFails := by
  refine ⟨assemble_ofInstr, fun _ => assemble_illFormed, fun l h => ?_⟩
  obtain ⟨lvl, w, hl, hi⟩ | ⟨i, hi, hl⟩ := assemble_wellFormed h
  · exact ⟨_, hi, .inl ⟨lvl, w, hl, by cases lvl <;> rfl⟩⟩
  · exact ⟨i, hi, .inr hl⟩
end

section
/-!
What an `EDGE` does, as a function of `MODE` and the decoder registers alone (40_receive.md R110 to R131). One of six
effects is chosen by them and by the operands; the effect is then applied to the whole state, whatever the operation
stream, the job and the handler slots are.
-/
namespace Sys2Proof.Machine

open Sys2Proof.Safety

/-- What one edge can do. -/
inductive EdgeEffect where
  | ignored
  /-- The frame in progress has come as far as `rx`. -/
  | progress (rx : Decoder) (hframe : rx.stage ≠ .idle)
  | abortWindow
  | abortParity
  | completeSilent
  | complete (m : Message)

/-- The state after an effect. -/
def EdgeEffect.apply : EdgeEffect → State → State
  | .ignored, s => label .ignored s
  | .progress rx _, s => label .progress (setRx rx s)
  | .abortWindow, s => abort .abortWindow s
  | .abortParity, s => abort .abortParity s
  | .completeSilent, s => totalReset (label .completeSilent s)
  | .complete m, s => totalReset (emitMsg m (label .complete s))

/-! The registers after an accepted half-symbol or bit of value `v` (R116, R120, R123). -/

def simpleNext (v : Bool) (rx : Decoder) : Decoder :=
  { (if rx.count % 2 = 1 then simpleCommit rx.count rx else rx) with prevbit := v, bitcount := rx.bitcount + 1 }

def advNext (v : Bool) (rx : Decoder) : Decoder :=
  { (if rx.count % 2 = 1 then advCommit rx.count rx.prevbit rx else rx) with
    prevbit := v, bitcount := rx.bitcount + 1 }

def bbsbNext (v : Bool) (rx : Decoder) : Decoder :=
  { bbsbStore (rx.count + 1) v rx with stage := .inData, bitcount := rx.bitcount + 1 }

theorem simpleNext_stage (v : Bool) (rx : Decoder) : (simpleNext v rx).stage = rx.stage := by
  show (if rx.count % 2 = 1 then simpleCommit rx.count rx else rx).stage = rx.stage
  split
  · exact (simpleCommit_case _ _).1
  · rfl

theorem advNext_stage (v : Bool) (rx : Decoder) : (advNext v rx).stage = rx.stage := by
  show (if rx.count % 2 = 1 then advCommit rx.count rx.prevbit rx else rx).stage = rx.stage
  split
  · exact (advCommit_case _ _ _).1
  · rfl

/-! The cases of the decoder that start from registers `rx`. A case that writes all of them does not see those of the
state it is applied to. -/

theorem simpleComplete_effect (rx : Decoder) : ∃ e : EdgeEffect, ∀ s, simpleComplete (setRx rx s) = e.apply s := by
  by_cases hc : rx.command.setWidth 4 = 14 ∨ rx.command.setWidth 4 = 6
  · exact ⟨.complete (.simple (rx.sender.setWidth 4) rx.recipient (decide (rx.command.setWidth 4 = 14))),
      fun s => if_pos hc⟩
  · exact ⟨.completeSilent, fun s => if_neg hc⟩

theorem bbsbComplete_effect (rx : Decoder) : ∃ e : EdgeEffect, ∀ s, bbsbComplete (setRx rx s) = e.apply s := by
  by_cases hc : rx.command = 0x14 ∨ rx.command = 0x15
  · exact ⟨.complete (.bbsb2011 (rx.sender.setWidth 16) (bbsbRemap (rx.recipient.setWidth 3))
      (decide (rx.command = 0x15)) (decide (bbsbRemap (rx.recipient.setWidth 3) = 1))), fun s => if_pos hc⟩
  · exact ⟨.completeSilent, fun s => if_neg hc⟩

theorem advComplete_effect (rx : Decoder) : ∃ e : EdgeEffect, ∀ s, advComplete (setRx rx s) = e.apply s :=
  ⟨.complete (.advanced rx.sender rx.recipient (rx.command.getLsbD 0) rx.group), fun _ => rfl⟩

theorem simpleHalf_effect (w : Micros) {rx : Decoder} (hrx : rx.stage ≠ .idle) :
    ∃ e : EdgeEffect, ∀ s, simpleHalf w (setRx rx s) = e.apply s := by
  cases hv : simpleVal w rx.count with
  | none => exact ⟨.abortWindow, fun s => by simp only [simpleHalf, setRx_rx, hv]; rfl⟩
  | some v =>
    by_cases hend : rx.count + 1 = protocol.endSimple
    · obtain ⟨e, he⟩ := simpleComplete_effect (simpleNext v rx)
      exact ⟨e, fun s => by simp only [simpleHalf, setRx_rx, hv]; exact (if_pos hend).trans (he s)⟩
    · exact ⟨.progress (simpleNext v rx) (by rwa [simpleNext_stage]), fun s => by
        simp only [simpleHalf, setRx_rx, hv]
        exact if_neg hend⟩

theorem advStep_effect (w : Micros) {rx : Decoder} (hrx : rx.stage ≠ .idle) :
    ∃ e : EdgeEffect, ∀ s, advStep w (setRx rx s) = e.apply s := by
  cases hv : advVal w with
  | none => exact ⟨.abortWindow, fun s => by simp only [advStep, hv]; rfl⟩
  | some v =>
    by_cases hparity : rx.count % 2 = 1 ∧ v = rx.prevbit
    · exact ⟨.abortParity, fun s => by simp only [advStep, setRx_rx, hv]; exact if_pos hparity⟩
    by_cases hend : rx.count + 1 = protocol.endAdvanced
    · obtain ⟨e, he⟩ := advComplete_effect (advNext v rx)
      exact ⟨e, fun s => by
        simp only [advStep, setRx_rx, hv]
        exact (if_neg hparity).trans ((if_pos hend).trans (he s))⟩
    · exact ⟨.progress (advNext v rx) (by rwa [advNext_stage]), fun s => by
        simp only [advStep, setRx_rx, hv]
        exact (if_neg hparity).trans (if_neg hend)⟩

theorem bbsbStep_effect (w : Micros) (rx : Decoder) : ∃ e : EdgeEffect, ∀ s, bbsbStep w (setRx rx s) = e.apply s := by
  cases hv : bbsbVal w with
  | none => exact ⟨.abortWindow, fun s => by simp only [bbsbStep, hv]; rfl⟩
  | some v =>
    by_cases hend : rx.count + 1 = protocol.endBbsb
    · obtain ⟨e, he⟩ := bbsbComplete_effect (bbsbNext v rx)
      exact ⟨e, fun s => by simp only [bbsbStep, setRx_rx, hv]; exact (if_pos hend).trans (he s)⟩
    · exact ⟨.progress (bbsbNext v rx) Stage.noConfusion, fun s => by
        simp only [bbsbStep, setRx_rx, hv]
        exact if_neg hend⟩

theorem simpleStep_effect (w : Micros) (l : Level) {rx : Decoder} (hrx : rx.stage ≠ .idle) :
    ∃ e : EdgeEffect, ∀ s, simpleStep w l (setRx rx s) = e.apply s := by
  cases l with
  | high => exact simpleHalf_effect w hrx
  | low =>
    by_cases hgap : simpleGapOk w
    · exact ⟨.progress rx hrx, fun s => if_pos hgap⟩
    · exact ⟨.abortWindow, fun s => if_neg hgap⟩

theorem syncStep_effect (w : Micros) (l : Level) (rx : Decoder) :
    ∃ e : EdgeEffect, ∀ s, syncStep w l (setRx rx s) = e.apply s := by
  by_cases hlatch : l = .high ∧ inWindow w protocol.wALatchH
  · exact ⟨.progress { rx with stage := .latchSeen, variant := .advanced } Stage.noConfusion, fun s => if_pos hlatch⟩
  by_cases hbit : l = .high ∧ (simpleVal w 0).isSome
  · obtain ⟨e, he⟩ :=
      simpleHalf_effect w (rx := { rx with stage := .inData, variant := .simple }) Stage.noConfusion
    exact ⟨e, fun s => (if_neg hlatch).trans ((if_pos hbit).trans (he s))⟩
  · exact ⟨.abortWindow, fun s => (if_neg hlatch).trans (if_neg hbit)⟩

theorem latchStep_effect (w : Micros) (l : Level) (rx : Decoder) :
    ∃ e : EdgeEffect, ∀ s, latchStep w l (setRx rx s) = e.apply s := by
  by_cases hlatch : l = .low ∧ inWindow w protocol.wALatchL
  · exact ⟨.progress { rx with stage := .inData, sender := 0, bitcount := 0 } Stage.noConfusion,
      fun s => if_pos hlatch⟩
  · exact ⟨.abortWindow, fun s => if_neg hlatch⟩

/-- Only `Idle` ignores an edge, and then it keeps its registers. -/
theorem idleStep_effect (w : Micros) (l : Level) (rx : Decoder) :
    ∃ e : EdgeEffect, ∀ s, s.rx = rx → idleStep w l s = e.apply s := by
  by_cases hsa : l = .low ∧ inWindow w protocol.wPreSA
  · exact ⟨.progress { rx with stage := .syncSeen } Stage.noConfusion, by rintro s rfl; exact if_pos hsa⟩
  by_cases hb : l = .low ∧ inWindow w protocol.wPreB
  · exact ⟨.progress { rx with stage := .syncSeen, variant := .bbsb } Stage.noConfusion,
      by rintro s rfl; exact (if_neg hsa).trans (if_pos hb)⟩
  · exact ⟨.ignored, fun s _ => (if_neg hsa).trans (if_neg hb)⟩

/-- The same of any state with the registers `rx`. -/
theorem effect_of_setRx {F : State → State} {rx : Decoder} :
    (∃ e : EdgeEffect, ∀ s, F (setRx rx s) = e.apply s) → ∃ e : EdgeEffect, ∀ s, s.rx = rx → F s = e.apply s :=
  fun ⟨e, he⟩ => ⟨e, by rintro s rfl; exact he s⟩

theorem decodeEdge_effect {w : Micros} {l : Level} {s t : State} (h : decodeEdge w l s = .next t) :
    ∃ e : EdgeEffect, ∀ s', s'.rx = s.rx → decodeEdge w l s' = .next (e.apply s') := by
  obtain ⟨hst, hv, -⟩ | ⟨hst, hv, -⟩ | ⟨hst, hv, -⟩ | ⟨hst, hv, -⟩ | ⟨hst, hv, -⟩ | ⟨hst | hst, hv, -⟩ :=
    decodeEdge_next h
  · obtain ⟨e, he⟩ := idleStep_effect w l s.rx
    exact ⟨e, fun s' hs' => by simp only [decodeEdge, hs', hst, hv, he s' hs']⟩
  · obtain ⟨e, he⟩ := effect_of_setRx (syncStep_effect w l s.rx)
    exact ⟨e, fun s' hs' => by simp only [decodeEdge, hs', hst, hv, he s' hs']⟩
  · obtain ⟨e, he⟩ := effect_of_setRx (latchStep_effect w l s.rx)
    exact ⟨e, fun s' hs' => by simp only [decodeEdge, hs', hst, hv, he s' hs']⟩
  · obtain ⟨e, he⟩ := effect_of_setRx (simpleStep_effect w l (rx := s.rx) (by simp [hst]))
    exact ⟨e, fun s' hs' => by simp only [decodeEdge, hs', hst, hv, he s' hs']⟩
  · obtain ⟨e, he⟩ := effect_of_setRx (advStep_effect w (rx := s.rx) (by simp [hst]))
    exact ⟨e, fun s' hs' => by simp only [decodeEdge, hs', hst, hv, he s' hs']⟩
  all_goals
    obtain ⟨e, he⟩ := effect_of_setRx (bbsbStep_effect w s.rx)
    exact ⟨e, fun s' hs' => by simp only [decodeEdge, hs', hst, hv, he s' hs']⟩

/-- An `EDGE` applies one effect, the same to every state with its mode and decoder registers; outside `LISTENING` it is
ignored. -/
theorem exec_edge_effect {w : Micros} {p : Polarity} {s t : State} (h : exec (.edge w p) s = .next t) :
    ∃ e : EdgeEffect, (e = .ignored ∨ s.mode = .listening) ∧ t = e.apply s ∧
      ∀ s', s'.mode = s.mode → s'.rx = s.rx → exec (.edge w p) s' = .next (e.apply s') := by
  obtain ⟨hm, rfl⟩ | ⟨hm, hd⟩ := execEdge_next h
  · exact ⟨.ignored, .inl rfl, rfl, fun s' hm' _ => exec_edge_ignored (hm' ▸ hm)⟩
  · obtain ⟨e, he⟩ := decodeEdge_effect hd
    have ht : t = e.apply s := by
      have hnext := hd.symm.trans (he s rfl)
      injection hnext
    exact ⟨e, .inr hm, ht, fun s' hm' hrx => (exec_edge_listening (hm'.trans hm)).trans (he s' hrx)⟩

end Sys2Proof.Machine

open Sys2Proof.Machine

/-- Settles O35: effect by effect; all but `ignored` need `LISTENING`. -/
theorem edgeOutcomeLabels : Obligations.EdgeOutcomeLabels := by
  intro w p s t h
  obtain ⟨e, hm, rfl, -⟩ := exec_edge_effect h
  cases e with
  | ignored => simp [EdgeEffect.apply, label]
  | progress rx hframe => simp [EdgeEffect.apply, hframe]
  | abortWindow | abortParity | completeSilent | complete m => simpa [EdgeEffect.apply] using hm
end

section
/-!
Which operations answer a next state, and the step around them (20_memory.md R67; 40_receive.md R126; 60_exceptions.md
R200, R211). No operation faults; the two refusals are an illegal decoder pair and a job past its schedule.
-/
namespace Sys2Proof.Machine

open Sys2Proof.Safety Sys2Proof.Claims

section
variable {w : Micros} {p : Polarity} {s t : State}

/-! `EDGE` in and outside the seven pairs. -/

theorem exec_edge_of_legalPair (hm : s.mode = .listening) (h : legalPair s.rx) : ∃ t, exec (.edge w p) s = .next t := by
  simp only [legalPair, legalPairs, List.mem_cons, List.not_mem_nil, or_false, Prod.mk.injEq] at h
  obtain hcase | hcase | hcase | hcase | hcase | hcase | hcase := h
  · exact ⟨_, exec_edge_idle ⟨hm, hcase⟩⟩
  · exact ⟨_, exec_edge_sync ⟨hm, hcase⟩⟩
  · exact ⟨_, exec_edge_bbsb (.inr ⟨hm, hcase⟩)⟩
  · exact ⟨_, exec_edge_latch ⟨hm, hcase⟩⟩
  · exact ⟨_, exec_edge_simple ⟨hm, hcase⟩⟩
  · exact ⟨_, exec_edge_advanced ⟨hm, hcase⟩⟩
  · exact ⟨_, exec_edge_bbsb (.inl ⟨hm, hcase⟩)⟩

theorem legalPair_of_decodeEdge {l : Level} (h : decodeEdge w l s ≠ .refused .unreachableDecoderState) :
    legalPair s.rx := by
  unfold decodeEdge at h
  split at h
  case h_8 => exact absurd rfl h
  all_goals simp [legalPair, legalPairs, *]

theorem exec_edge_of_not_legalPair (hm : s.mode = .listening) (h : ¬legalPair s.rx) :
    exec (.edge w p) s = .refused .unreachableDecoderState := by
  rw [exec_edge_listening hm]
  exact not_imp_comm.mp legalPair_of_decodeEdge h

/-! `TICK` by its place in the schedule (41_transmit.md R159). -/

theorem exec_tick_last (h : lastTick s) : exec .tick s = .next (endJob s) := by
  obtain ⟨hm, hend, hrep⟩ := h
  rw [exec_tick_sending hm, if_pos hend, if_pos hrep]

theorem exec_tick_repeat (hm : s.mode = .sending) (hend : s.tx.pos.toNat + 1 = (sched s.tx).length)
    (hrep : s.tx.repeats.toNat + 1 ≠ Config.pRepeat) :
    exec .tick s = .next (advanceTo 0 (s.tx.repeats + 1) s) := by
  rw [exec_tick_sending hm, if_pos hend, if_neg hrep]

theorem exec_tick_phase (hm : s.mode = .sending) (hlt : s.tx.pos.toNat + 1 < (sched s.tx).length) :
    exec .tick s = .next (advanceTo (s.tx.pos.toNat + 1) s.tx.repeats s) := by
  rw [exec_tick_sending hm, if_neg hlt.ne, if_pos hlt]

theorem exec_tick_past (hm : s.mode = .sending) (hgt : (sched s.tx).length < s.tx.pos.toNat + 1) :
    exec .tick s = .refused .unreachableJobState := by
  rw [exec_tick_sending hm, if_neg hgt.ne', if_neg hgt.not_gt]

/-- Everything a `TICK` can do when it answers a next state, by its place in the schedule. -/
theorem exec_tick_next (h : exec .tick s = .next t) :
    (s.mode ≠ .sending ∧ t = label .none s) ∨ (lastTick s ∧ t = endJob s) ∨
    (s.mode = .sending ∧ s.tx.pos.toNat + 1 = (sched s.tx).length ∧ s.tx.repeats.toNat + 1 ≠ Config.pRepeat ∧
      t = advanceTo 0 (s.tx.repeats + 1) s) ∨
    (s.mode = .sending ∧ s.tx.pos.toNat + 1 < (sched s.tx).length ∧
      t = advanceTo (s.tx.pos.toNat + 1) s.tx.repeats s) := by
  simp only [lastTick, and_assoc, sched_length]
  exact tickWith_next h

/-- A `TICK` of a job answers a next state exactly up to the last phase of the schedule. -/
theorem exec_tick_of_le (hm : s.mode = .sending) (hle : s.tx.pos.toNat + 1 ≤ (sched s.tx).length) :
    ∃ t, exec .tick s = .next t := by
  obtain hlt | hend := hle.lt_or_eq
  · exact ⟨_, exec_tick_phase hm hlt⟩
  by_cases hrep : s.tx.repeats.toNat + 1 = Config.pRepeat
  · exact ⟨_, exec_tick_last ⟨hm, hend, hrep⟩⟩
  · exact ⟨_, exec_tick_repeat hm hend hrep⟩

/-- A next state or a refusal: no operation faults (60_exceptions.md R200). -/
theorem exec_next_or_refused (i : Instr) (s : State) : (∃ t, exec i s = .next t) ∨ ∃ r, exec i s = .refused r := by
  cases i with
  | edge w p =>
    by_cases hm : s.mode = .listening
    · by_cases hpair : legalPair s.rx
      · exact .inl (exec_edge_of_legalPair hm hpair)
      · exact .inr ⟨_, exec_edge_of_not_legalPair hm hpair⟩
    · exact .inl ⟨_, exec_edge_ignored hm⟩
  | tick =>
    by_cases hm : s.mode = .sending
    · obtain hle | hgt := le_or_gt (s.tx.pos.toNat + 1) (sched s.tx).length
      · exact .inl (exec_tick_of_le hm hle)
      · exact .inr ⟨_, exec_tick_past hm hgt⟩
    · exact .inl ⟨_, exec_tick_not_sending hm⟩
  | init | regs | rega | regb | sends | senda | sendb => exact .inl ⟨_, rfl⟩

/-! The step. -/

theorem step_of_decode {word : Word} {rest : List Word} {i : Instr} (hs : s.ops = word :: rest)
    (h : decode word = .ok i) : step s = exec i { s with ops := rest } := by
  simp only [step, nextWord, hs, h]

/-- Everything a step that answers a next state has done. -/
theorem step_next (h : step s = .next t) :
    ∃ word rest i, s.ops = word :: rest ∧ decode word = .ok i ∧ exec i { s with ops := rest } = .next t := by
  cases hs : s.ops with
  | nil => simp only [step, nextWord, hs] at h; cases h
  | cons word rest =>
    cases hd : decode word with
    | error e => rw [step_refused hs hd] at h; cases h
    | ok i => exact ⟨word, rest, i, rfl, hd, (step_of_decode hs hd).symm.trans h⟩

theorem step_fault_iff : step s = .fault .streamExhausted ↔ s.ops = [] := by
  cases hs : s.ops with
  | nil => simp only [step, nextWord, hs]
  | cons word rest =>
    refine iff_of_false (fun h => ?_) (List.cons_ne_nil _ _)
    cases hd : decode word with
    | error e => rw [step_refused hs hd] at h; cases h
    | ok i =>
      rw [step_of_decode hs hd] at h
      obtain ⟨t, ht⟩ | ⟨r, hr⟩ := exec_next_or_refused i { s with ops := rest }
      · rw [ht] at h; cases h
      · rw [hr] at h; cases h

end

end Sys2Proof.Machine

open Sys2Proof.Machine Sys2Proof.Safety

/-- Settles O33: the dispatch has an arm for each legal pair, and its last arm for every other. -/
theorem onlySevenDecoderPairsRun : Obligations.OnlySevenDecoderPairsRun :=
  fun _ _ _ hm => ⟨exec_edge_of_not_legalPair hm, exec_edge_of_legalPair hm⟩

/-- Settles O43: past the end neither test of the place holds. -/
theorem tickPastScheduleRefused : Obligations.TickPastScheduleRefused := fun _ => exec_tick_past

/-- Settles O11: the invariant has the decoder pair legal and the position below the schedule's length. -/
theorem everyOperationAcceptedInEveryMode : Obligations.EveryOperationAcceptedInEveryMode := by
  intro s i hinv
  cases i with
  | edge w p =>
    by_cases hm : s.mode = .listening
    · exact exec_edge_of_legalPair hm hinv.pair
    · exact ⟨_, exec_edge_ignored hm⟩
  | tick =>
    by_cases hm : s.mode = .sending
    · obtain ⟨hpos, -⟩ := hinv.place hm
      exact exec_tick_of_le hm (by rwa [sched_length])
    · exact ⟨_, exec_tick_not_sending hm⟩
  | init | regs | rega | regb | sends | senda | sendb => exact ⟨_, rfl⟩

/-- Settles O7: the step adds nothing to the operation. -/
theorem stepRunsDecodedOperation : Obligations.StepRunsDecodedOperation := fun _ _ _ _ => step_of_decode

/-- Settles O9: a word at the head is refused or run, and no operation faults. -/
theorem onlyExhaustedStreamFaults : Obligations.OnlyExhaustedStreamFaults := fun _ => step_fault_iff

/-- Settles O13: the literals of the reset state. -/
theorem resetStreamEmptyAndQuiet : Obligations.ResetStreamEmptyAndQuiet := ⟨rfl, rfl⟩
end

section
/-!
What an operation reads and leaves unchanged (10_state.md R20, R51): the registers it writes, the outputs it gives, and
that it does not see the operation stream, nor the handler slots but to decide a dispatch.
-/
namespace Sys2Proof.Machine

open Sys2Proof.Safety Sys2Proof.Claims

/-! The register table. -/

/-- A state has each register at its width, so only the codes of the enumerations are to be bounded. -/
theorem read_lt_two_pow_width (s : State) (r : Reg) : s.read r < 2 ^ r.width := by
  cases r with
  | mode => show s.mode.code < 2 ^ 2; cases s.mode <;> decide
  | intsrc => show s.intsrc.code < 2 ^ 2; cases s.intsrc <;> decide
  | line => show levelCode s.line < 2 ^ 1; cases s.line <;> decide
  | rxStage => show s.rx.stage.code < 2 ^ 2; cases s.rx.stage <;> decide
  | rxVariant => show s.rx.variant.code < 2 ^ 2; cases s.rx.variant <;> decide
  | txVariant => show s.tx.variant.code < 2 ^ 2; cases s.tx.variant <;> decide
  | rxBitcount | rxSender | rxRecipient | rxCommand | txSender | txRecipient | txCommand | txPos | txRepeats
  | txPulse => exact BitVec.isLt _
  | rxGroup | rxPrevbit | txGroup | hslotSimple | hslotAdvanced | hslotBbsb => exact Bool.toNat_lt _

theorem rxOnly_refl (s : State) : RxOnly s s := ⟨rfl, rfl, rfl, rfl, rfl, rfl, rfl, rfl⟩

theorem exec_edge_rxOnly {w : Micros} {p : Polarity} {s t : State} (h : exec (.edge w p) s = .next t) : RxOnly s t := by
  obtain ⟨-, rfl⟩ | ⟨-, hd⟩ := execEdge_next h
  · exact rxOnly_refl s
  · exact decodeEdge_rxOnly hd

theorem read_of_rxOnly {s t : State} {r : Reg} (h : RxOnly s t) (hr : r ∉ rxRegs) : t.read r = s.read r := by
  obtain ⟨hmode, hintsrc, hline, htx, hsimple, hadvanced, hbbsb, -⟩ := h
  cases r with
  | rxStage | rxVariant | rxBitcount | rxSender | rxRecipient | rxCommand | rxGroup | rxPrevbit =>
    exact absurd (by decide) hr
  | mode | intsrc | line | txVariant | txSender | txRecipient | txCommand | txGroup | txPos | txRepeats | txPulse
  | hslotSimple | hslotAdvanced | hslotBbsb =>
    simp only [State.read, hmode, hintsrc, hline, htx, hsimple, hadvanced, hbbsb]

/-- The handler slots are the same. -/
def SameSlots (s t : State) : Prop :=
  t.hslotSimple = s.hslotSimple ∧ t.hslotAdvanced = s.hslotAdvanced ∧ t.hslotBbsb = s.hslotBbsb

/-- No operation writes the operation stream, and none but `REG*` a handler slot. -/
theorem exec_ops_slots {i : Instr} {s t : State} (h : exec i s = .next t) :
    t.ops = s.ops ∧ (isReg i = false → SameSlots s t) := by
  cases i with
  | edge w p =>
    obtain ⟨-, -, -, -, hsimple, hadvanced, hbbsb, hops⟩ := exec_edge_rxOnly h
    exact ⟨hops, fun _ => ⟨hsimple, hadvanced, hbbsb⟩⟩
  | tick =>
    obtain ⟨-, rfl⟩ | ⟨-, rfl⟩ | ⟨-, -, -, rfl⟩ | ⟨-, -, rfl⟩ := exec_tick_next h <;>
      exact ⟨rfl, fun _ => ⟨rfl, rfl, rfl⟩⟩
  | regs | rega | regb => cases h; exact ⟨rfl, nofun⟩
  | init | sends | senda | sendb => cases h; exact ⟨rfl, fun _ => ⟨rfl, rfl, rfl⟩⟩

/-- The handler slots S19 to S21. -/
def slotRegs : List Reg := [.hslotSimple, .hslotAdvanced, .hslotBbsb]

theorem read_of_sameSlots {s t : State} {r : Reg} (h : SameSlots s t) (hr : r ∈ slotRegs) : t.read r = s.read r := by
  obtain ⟨hsimple, hadvanced, hbbsb⟩ := h
  simp only [slotRegs, List.mem_cons, List.not_mem_nil, or_false] at hr
  obtain rfl | rfl | rfl := hr
  · exact congrArg Bool.toNat hsimple
  · exact congrArg Bool.toNat hadvanced
  · exact congrArg Bool.toNat hbbsb

/-- `EDGE` writes the decoder registers. -/
theorem writes_edge (w : Micros) (p : Polarity) (r : Reg) : writes (.edge w p) r = decide (r ∈ rxRegs) := by
  cases r <;> rfl

/-- `TICK`, `INIT` and `SEND*` write all but the handler slots. -/
theorem writes_of_not_edge_reg {i : Instr} (hedge : isEdge i = false) (hreg : isReg i = false) (r : Reg) :
    writes i r = !decide (r ∈ slotRegs) := by
  cases i with
  | edge => cases hedge
  | regs | rega | regb => cases hreg
  | tick | init | sends | senda | sendb => cases r <;> rfl

/-- Each register is written by the operations of its column alone. -/
theorem exec_read {i : Instr} {s t : State} {r : Reg} (h : exec i s = .next t) (hr : writes i r = false) :
    t.read r = s.read r := by
  cases i with
  | edge w p =>
    rw [writes_edge, decide_eq_false_iff_not] at hr
    exact read_of_rxOnly (exec_edge_rxOnly h) hr
  | tick | init | sends | senda | sendb =>
    rw [writes_of_not_edge_reg rfl rfl, Bool.not_eq_false', decide_eq_true_iff] at hr
    exact read_of_sameSlots ((exec_ops_slots h).2 rfl) hr
  | regs | rega | regb =>
    cases h
    cases r <;> cases hr <;> rfl

/-! What an operation does not see. -/

/-- A `TICK` applies one update, the same to every state with its mode and job. -/
theorem exec_tick_effect {s t : State} (h : exec .tick s = .next t) :
    ∃ f : State → State, (f = label .none ∨ f = endJob ∨ ∃ n rep, f = advanceTo n rep) ∧ t = f s ∧
      ∀ s', s'.mode = s.mode → s'.tx = s.tx → exec .tick s' = .next (f s') := by
  obtain ⟨hm, rfl⟩ | ⟨⟨hm, hend, hrep⟩, rfl⟩ | ⟨hm, hend, hrep, rfl⟩ | ⟨hm, hlt, rfl⟩ := exec_tick_next h
  · exact ⟨_, .inl rfl, rfl, fun s' hm' _ => exec_tick_not_sending (hm' ▸ hm)⟩
  · exact ⟨_, .inr (.inl rfl), rfl, fun s' hm' htx => exec_tick_last ⟨hm'.trans hm, htx ▸ hend, htx ▸ hrep⟩⟩
  · exact ⟨_, .inr (.inr ⟨_, _, rfl⟩), rfl, fun s' hm' htx => by
      rw [exec_tick_repeat (hm'.trans hm) (htx ▸ hend) (htx ▸ hrep), htx]⟩
  · exact ⟨_, .inr (.inr ⟨_, _, rfl⟩), rfl, fun s' hm' htx => by
      rw [exec_tick_phase (hm'.trans hm) (htx ▸ hlt), htx]⟩

/-- The operations that wait do not change what an operation does. -/
theorem exec_with_ops {i : Instr} {s t : State} (ops : List Word) (h : exec i s = .next t) :
    exec i { s with ops := ops } = .next { t with ops := ops } := by
  cases i with
  | edge w p =>
    obtain ⟨e, -, rfl, he⟩ := exec_edge_effect h
    rw [he { s with ops := ops } rfl rfl]
    cases e <;> rfl
  | tick =>
    obtain ⟨f, hf, rfl, hall⟩ := exec_tick_effect h
    rw [hall { s with ops := ops } rfl rfl]
    obtain rfl | rfl | ⟨n, rep, rfl⟩ := hf <;> rfl
  | init | regs | rega | regb | sends | senda | sendb => cases h; rfl

/-- The handler slots change what an operation dispatches, and nothing else. -/
theorem exec_withSlots {i : Instr} {s t : State} (a b c : Bool) (hi : isReg i = false) (h : exec i s = .next t) :
    ∃ d, exec i (withSlots a b c s) = .next (withSlots a b c { t with out := { t.out with dispatched := d } }) := by
  cases i with
  | edge w p =>
    obtain ⟨e, -, rfl, he⟩ := exec_edge_effect h
    refine ⟨(e.apply (withSlots a b c s)).out.dispatched, ?_⟩
    rw [he (withSlots a b c s) rfl rfl]
    cases e <;> rfl
  | tick =>
    obtain ⟨f, hf, rfl, hall⟩ := exec_tick_effect h
    refine ⟨false, ?_⟩
    rw [hall (withSlots a b c s) rfl rfl]
    obtain rfl | rfl | ⟨n, rep, rfl⟩ := hf <;> rfl
  | regs | rega | regb => cases hi
  | init | sends | senda | sendb => cases h; exact ⟨false, rfl⟩

theorem trace_cons_eq_some {i : Instr} {is : List Instr} {s u : State} {outs : List Output}
    (h : trace (i :: is) s = some (outs, u)) :
    ∃ t outs', exec i s = .next t ∧ trace is t = some (outs', u) ∧ outs = t.out :: outs' := by
  simp only [trace] at h
  split at h
  · next t hexec =>
    split at h
    · next outs' u' htrace =>
      cases h
      exact ⟨t, outs', hexec, htrace, rfl⟩
    · cases h
  · cases h
  · cases h

theorem run_succ {k : Nat} {s t : State} (h : step s = .next t) :
    Sys2Proof.core.run (k + 1) s = Sys2Proof.core.run k t := by
  have hstep : Sys2Proof.core.step s = .next t := h
  simp only [Host.Core.run, hstep]

/-- Stepping the words of operations is running them, one word a step. -/
theorem run_of_trace {is : List Instr} {s u : State} {outs : List Output} (h : trace is s = some (outs, u)) :
    Sys2Proof.core.run is.length { s with ops := is.map encode ++ s.ops } = .next u ∧ outs.length = is.length := by
  induction is generalizing s outs with
  | nil =>
    simp only [trace, Option.some.injEq, Prod.mk.injEq] at h
    obtain ⟨rfl, rfl⟩ := h
    exact ⟨rfl, rfl⟩
  | cons i is ih =>
    obtain ⟨t, outs', hexec, htrace, rfl⟩ := trace_cons_eq_some h
    obtain ⟨hrun, hlen⟩ := ih htrace
    have hops : t.ops = s.ops := (exec_ops_slots hexec).1
    have hstep : step { s with ops := encode i :: (is.map encode ++ s.ops) } =
        .next { t with ops := is.map encode ++ t.ops } := by
      rw [step_of_decode rfl (decode_encode i), hops]
      exact exec_with_ops (s := s) _ hexec
    exact ⟨(run_succ hstep).trans hrun, congrArg Nat.succ hlen⟩

/-! The outputs and the mode. -/

theorem exec_not_edge_outputs {i : Instr} {s t : State} (hi : isEdge i = false) (h : exec i s = .next t) :
    t.out.outcome = .none ∧
    (t.out.interval = if (i = .tick ∨ isSend i = true) ∧ t.mode = .sending then some t.tx.pulse else none) ∧
    (t.out.rearm = true ↔ i = .tick ∧ s.mode = .sending ∧ t.mode = .listening) := by
  cases i with
  | edge => cases hi
  | tick =>
    obtain ⟨hm, rfl⟩ | ⟨⟨hm, -⟩, rfl⟩ | ⟨hm, -, -, rfl⟩ | ⟨hm, -, rfl⟩ := exec_tick_next h
    · simp [hm]
    · simp [endJob_eq, hm]
    · simp [advanceTo_eq, hm]
    · simp [advanceTo_eq, hm]
  | init | regs | rega | regb => cases h; simp [isSend]
  | sends | senda | sendb => cases h; simp [isSend, beginSend_eq]

theorem exec_modeAfter {i : Instr} {s t : State} (h : exec i s = .next t) : modeAfter i s t.mode := by
  cases i with
  | edge w p => exact (exec_edge_rxOnly h).1
  | tick =>
    obtain ⟨hm, rfl⟩ | ⟨hlast, rfl⟩ | ⟨-, -, hrep, rfl⟩ | ⟨-, hlt, rfl⟩ := exec_tick_next h
    · exact ⟨fun hlast => absurd hlast.1 hm, fun _ => rfl⟩
    · exact ⟨fun _ => rfl, absurd hlast⟩
    · exact ⟨fun ⟨_, _, hlast⟩ => absurd hlast hrep, fun _ => rfl⟩
    · exact ⟨fun ⟨_, hend, _⟩ => absurd hend hlt.ne, fun _ => rfl⟩
  | init | regs | rega | regb | sends | senda | sendb => cases h; rfl

end Sys2Proof.Machine

open Sys2Proof.Machine

/-- Settles O14: every register is held at its width. -/
theorem registersFitTheirWidths : Obligations.RegistersFitTheirWidths := read_lt_two_pow_width

/-- Settles O15: the column of each operation, and the stream that none of them writes. -/
theorem registersChangeOnlyByTheirWriters : Obligations.RegistersChangeOnlyByTheirWriters :=
  fun _ _ _ h => ⟨fun _ => exec_read h, (exec_ops_slots h).1⟩

/-- Settles O16: every case of the decoder changes the decoder registers and the outputs alone. -/
theorem edgeWritesDecoderRegistersOnly : Obligations.EdgeWritesDecoderRegistersOnly := by
  intro w p s t h
  obtain ⟨-, -, -, htx, -, -, -, hops⟩ := exec_edge_rxOnly h
  exact ⟨fun _ => read_of_rxOnly (exec_edge_rxOnly h), htx, hops⟩

/-- Settles O10: each operation's word decodes to it, and the words behind it do not change what it does. -/
theorem traceIsRunOfSteps : Obligations.TraceIsRunOfSteps := fun _ _ _ _ => run_of_trace

/-- Settles O8: the word the step takes, and the operation's frame for the words behind it. -/
theorem stepTakesOneWordInOrder : Obligations.StepTakesOneWordInOrder := by
  intro s t h
  obtain ⟨word, rest, i, hs, hd, hexec⟩ := step_next h
  exact ⟨word, i, by rw [hs, (exec_ops_slots hexec).1], hd⟩

/-- Settles O36: no message by `exec_no_message`, the rest by the update each operation makes. -/
theorem otherOperationsOutputs : Obligations.OtherOperationsOutputs := by
  intro i s t hi h
  obtain ⟨hmsg, hdispatched⟩ := exec_no_message hi h
  obtain ⟨houtcome, hinterval, hrearm⟩ := exec_not_edge_outputs hi h
  exact ⟨houtcome, hmsg, hdispatched, hinterval, hrearm⟩

/-- Settles O56: the mode table, and that a change of mode is to one of the two armed modes. -/
theorem modeTransitions : Obligations.ModeTransitions := by
  intro i s t h
  refine ⟨exec_modeAfter h, fun hunarmed => ?_⟩
  obtain ⟨hm, -⟩ | ⟨hm, -⟩ | ⟨hm, -⟩ := exec_mode_intsrc h
  · exact hm ▸ hunarmed
  · rw [hm] at hunarmed; cases hunarmed
  · rw [hm] at hunarmed; cases hunarmed

/-- Settles O57: the effect of an `EDGE` and the update of a `TICK` are chosen without the slots. -/
theorem handlerSlotsDecideDispatchOnly : Obligations.HandlerSlotsDecideDispatchOnly :=
  fun _ _ _ a b c => exec_withSlots a b c
end

section
/-!
The schedules as a whole (41_transmit.md R155, section 4): the level of a phase is the parity of its place, and the two
phases of a slot or of a bit last a fixed time together.
-/
namespace Sys2Proof.Machine

open Sys2Proof.Safety Sys2Proof.Claims

/-! Levels. -/

theorem simplePhase_level (j : Job) (p : Nat) : (simplePhase j p).level = if p % 2 = 0 then .low else .high := by
  unfold simplePhase
  split
  · next hfirst => rw [hfirst, if_pos rfl]
  split
  · next hodd => rw [if_neg (by omega)]
  · next heven => rw [if_pos (by omega)]

theorem advPhase_level (j : Job) {p : Nat} (hp : p < 68) :
    (advPhase j p).level = if p % 2 = 0 then .low else .high := by
  obtain rfl | rfl | rfl | ⟨i, hi, rfl⟩ | rfl : p = 0 ∨ p = 1 ∨ p = 2 ∨ (∃ i < 64, p = i + 3) ∨ p = 67 := by
    by_cases hi : 3 ≤ p ∧ p < 67
    · exact .inr (.inr (.inr (.inl ⟨p - 3, by omega, by omega⟩)))
    · omega
  · rfl
  · rfl
  · rfl
  · have hparity : (i + 3) % 2 = 0 ↔ ¬i % 2 = 0 := by omega
    simp only [advPhase_half hi, hparity, ite_not]
  · rfl

theorem bbsbPhase_level (j : Job) (p : Nat) : (bbsbPhase j p).level = if p % 2 = 0 then .low else .high := by
  cases p with
  | zero => rfl
  | succ k =>
    have hparity : (1 + k) % 2 = 0 ↔ ¬k % 2 = 0 := by omega
    simp only [Nat.add_comm k, bbsbPhase_bit, hparity, ite_not]

/-- The phases alternate from Low. -/
theorem phaseAt_level (j : Job) {p : Nat} (hp : p < schedLength j.variant) :
    (phaseAt j p).level = if p % 2 = 0 then .low else .high := by
  unfold phaseAt
  cases hv : j.variant with
  | unknown => rw [hv] at hp; cases hp
  | simple => exact simplePhase_level j p
  | advanced => rw [hv] at hp; exact advPhase_level j hp
  | bbsb => exact bbsbPhase_level j p

theorem schedLength_even (v : Variant) : schedLength v % 2 = 0 := by cases v <;> rfl

theorem schedLength_eq {v : Variant} (h : v ≠ .unknown) :
    schedLength v = if v = .simple then 50 else if v = .advanced then 68 else 26 := by
  cases v with
  | unknown => exact absurd rfl h
  | simple | advanced | bbsb => rfl

theorem schedLength_pos {v : Variant} (h : v ≠ .unknown) : 0 < schedLength v := by
  rw [schedLength_eq h]
  split_ifs <;> decide

theorem phase_eq_of_level {ph : Phase} {l : Level} (h : ph.level = l) : ph = ⟨l, ph.duration⟩ := by rw [← h]

theorem phaseAt_succ_level_ne (j : Job) {p : Nat} (hp : p + 1 < schedLength j.variant) :
    (phaseAt j (p + 1)).level ≠ (phaseAt j p).level := by
  rw [phaseAt_level j hp, phaseAt_level j (Nat.lt_of_succ_lt hp)]
  obtain hpar | hpar := Nat.mod_two_eq_zero_or_one p
  · rw [if_neg (by omega), if_pos hpar]; nofun
  · rw [if_pos (by omega), if_neg (by omega)]; nofun

theorem phaseAt_first_level (j : Job) (h : 0 < schedLength j.variant) : (phaseAt j 0).level = .low := phaseAt_level j h

/-- A schedule has an even number of phases, so the last one is High. -/
theorem phaseAt_last_level (j : Job) {p : Nat} (hp : p + 1 = schedLength j.variant) : (phaseAt j p).level = .high := by
  have heven := schedLength_even j.variant
  rw [phaseAt_level j (by omega), if_neg (by omega)]

/-! Durations. -/

/-- A sum over `a` terms and then `n` pairs, each of which adds up to `c`. -/
theorem sum_range_add_pairs {f : Nat → Nat} {a n c : Nat} (h : ∀ k < n, f (a + 2 * k) + f (a + 2 * k + 1) = c) :
    ((List.range (a + 2 * n)).map f).sum = ((List.range a).map f).sum + n * c := by
  induction n with
  | zero => simp
  | succ n ih =>
    have hlast := h n n.lt_succ_self
    have hinit := ih fun k hk => h k (hk.trans n.lt_succ_self)
    calc ((List.range (a + 2 * n + 1 + 1)).map f).sum
        = ((List.range (a + 2 * n)).map f).sum + f (a + 2 * n) + f (a + 2 * n + 1) := by
          rw [List.sum_range_succ, List.sum_range_succ]
      _ = ((List.range a).map f).sum + (n + 1) * c := by rw [hinit, add_assoc, hlast, Nat.succ_mul, add_assoc]

theorem simpleHigh_le (j : Job) (s : Nat) : simpleHigh j s ≤ 1500 := by
  unfold simpleHigh
  split_ifs <;> decide

/-- The preamble, 24 slots of 1500 µs with their gaps, and the last slot. -/
theorem simple_duration_sum (j : Job) : ((List.range 50).map fun p => (simplePhase j p).duration).sum = 46375 := by
  have hslot : ∀ k < 24, (simplePhase j (1 + 2 * k)).duration + (simplePhase j (1 + 2 * k + 1)).duration = 1500 :=
    fun k _ => by
      rw [Nat.add_comm 1, simplePhase_slot, simplePhase_gap]
      exact Nat.add_sub_cancel' (simpleHigh_le j k)
  have hlast : (simplePhase j 49).duration = 375 := by rw [simplePhase_slot 24, simpleHigh_last]
  calc ((List.range 50).map fun p => (simplePhase j p).duration).sum
      = ((List.range (1 + 2 * 24)).map fun p => (simplePhase j p).duration).sum + (simplePhase j 49).duration :=
        List.sum_range_succ _ 49
    _ = 10000 + 24 * 1500 + 375 := by rw [sum_range_add_pairs hslot, hlast]; rfl

/-- Preamble, toggle and latch, 32 bits of 275 and 1180 µs in some order, and the stop pulse. -/
theorem advanced_duration_sum (j : Job) : ((List.range 68).map fun p => (advPhase j p).duration).sum = 59680 := by
  have hbit : ∀ k < 32, (advPhase j (3 + 2 * k)).duration + (advPhase j (3 + 2 * k + 1)).duration = 1455 :=
    fun k hk => by
      rw [Nat.add_right_comm, advPhase_bit hk, advPhase_inverse hk]
      cases advBit j k <;> rfl
  have hfirst : ((List.range 3).map fun p => (advPhase j p).duration).sum = 12885 := by
    simp [List.range_succ, advPhase, protocol]
  have hstop : (advPhase j 67).duration = 235 := rfl
  calc ((List.range 68).map fun p => (advPhase j p).duration).sum
      = ((List.range (3 + 2 * 32)).map fun p => (advPhase j p).duration).sum + (advPhase j 67).duration :=
        List.sum_range_succ _ 67
    _ = 12885 + 32 * 1455 + 235 := by rw [sum_range_add_pairs hbit, hfirst, hstop]

theorem sum_bit_durations (bits : List Bool) :
    (bits.map fun b => if b then 900 else 300).sum = 300 * bits.count false + 900 * bits.count true := by
  induction bits with
  | nil => rfl
  | cons b bits ih => cases b <;> simp [ih] <;> omega

theorem bbsb_duration_sum (j : Job) :
    ((List.range 26).map fun p => (bbsbPhase j p).duration).sum =
      9000 + 300 * ((List.range 25).map (bbsbBit j)).count false +
        900 * ((List.range 25).map (bbsbBit j)).count true := by
  have hbit (k : Nat) : (bbsbPhase j (k + 1)).duration = if bbsbBit j k then 900 else 300 := by
    rw [Nat.add_comm, bbsbPhase_bit]
  calc ((List.range 26).map fun p => (bbsbPhase j p).duration).sum
      = 9000 + ((List.range 25).map fun k => (bbsbPhase j (k + 1)).duration).sum := List.sum_range_succ' _ 25
    _ = 9000 + (((List.range 25).map (bbsbBit j)).map fun b => if b then 900 else 300).sum := by
        simp only [hbit, List.map_map, Function.comp_def]
    _ = _ := by rw [sum_bit_durations, add_assoc]

theorem sched_durations (j : Job) :
    (sched j).map (·.duration) = (List.range (schedLength j.variant)).map fun p => (phaseAt j p).duration := by
  rw [sched, List.map_map]
  rfl

end Sys2Proof.Machine

open Sys2Proof.Machine Sys2Proof.Safety

/-- Settles O45: the level is the parity of the place, and the length is even. -/
theorem schedulesAlternate : Obligations.SchedulesAlternate := by
  intro j hj
  have hpos : 0 < schedLength j.variant := schedLength_pos hj
  refine ⟨by rw [sched_length, schedLength_eq hj], ?_, ?_, fun p a b ha hb => ?_⟩
  · exact ⟨_, (sched_get j 0 hpos).trans (congrArg some (phase_eq_of_level (phaseAt_first_level j hpos)))⟩
  · rw [sched_length]
    have hlast : (phaseAt j (schedLength j.variant - 1)).level = .high := phaseAt_last_level j (by omega)
    exact ⟨_, (sched_get j _ (by omega)).trans (congrArg some (phase_eq_of_level hlast))⟩
  · obtain ⟨-, rfl⟩ := sched_get_eq_some.mp ha
    obtain ⟨hlt, rfl⟩ := sched_get_eq_some.mp hb
    exact (phaseAt_succ_level_ne j hlt).symm

/-- Settles O49: variant by variant. -/
theorem repeatDurations : Obligations.RepeatDurations := by
  refine fun j => ⟨fun hj => ?_, fun hj => ?_, fun hj => ?_⟩
  · simp only [sched_durations, phaseAt, hj]
    exact simple_duration_sum j
  · simp only [sched_durations, phaseAt, hj]
    exact advanced_duration_sum j
  · simp only [sched_durations, phaseAt, hj]
    exact bbsb_duration_sum j

/-- Settles O44: the phase that begins is the next one, the first one after the last, or Low at the end of the job. -/
theorem tickInvertsLine : Obligations.TickInvertsLine := by
  intro s hinv hm
  obtain ⟨hpos, -⟩ := hinv.place hm
  obtain ⟨hline, -⟩ := hinv.phase hm
  obtain ⟨t, ht⟩ := exec_tick_of_le hm (by rwa [sched_length])
  refine ⟨t, ht, ?_⟩
  rw [hline]
  obtain ⟨hm', -⟩ | ⟨⟨-, hend, -⟩, rfl⟩ | ⟨-, hend, -, rfl⟩ | ⟨-, hlt, rfl⟩ := exec_tick_next ht
  · exact absurd hm hm'
  · rw [sched_length] at hend
    rw [phaseAt_last_level _ hend]
    nofun
  · rw [sched_length] at hend
    have hfirst := phaseAt_first_level s.tx (by omega)
    rw [phaseAt_last_level _ hend]
    simp only [advanceTo_eq, phaseAt_place, hfirst]
    nofun
  · rw [sched_length] at hlt
    exact phaseAt_succ_level_ne s.tx hlt
end

section
/-!
The decoder's part of the invariant of `Safety.lean` (10_state.md R24 to R31, R45): a frame in progress has come only so
far and has set only so many bits, and one more edge of it keeps that.
-/
namespace Sys2Proof.Machine

open Sys2Proof.Safety Sys2Proof.Claims

/-- The clauses of the invariant about the decoder registers alone. -/
structure FrameOk (rx : Decoder) : Prop where
  pair : legalPair rx
  idle : rx.stage = .idle → rx = idleDecoder
  count : countInRange rx
  fields : fieldsInUse rx

/-- The decoder between the preamble and the first bit: nothing is stored. -/
def freshDecoder (st : Stage) (v : Variant) : Decoder := { idleDecoder with stage := st, variant := v }

theorem frameOk_freshDecoder {st : Stage} {v : Variant} (hp : (st, v) ∈ legalPairs) (hst : st ≠ .inData) :
    FrameOk (freshDecoder st v) := by
  cases st with
  | inData => exact absurd rfl hst
  | idle =>
    obtain rfl : v = .unknown := by simpa [legalPairs] using hp
    exact ⟨hp, fun _ => rfl, rfl, ⟨rfl, rfl, rfl, rfl, rfl⟩⟩
  | syncSeen | latchSeen => exact ⟨hp, nofun, rfl, ⟨rfl, rfl, rfl, rfl, rfl⟩⟩

theorem frameOk_idleDecoder : FrameOk idleDecoder :=
  frameOk_freshDecoder (st := .idle) (v := .unknown) (by decide) (by decide)

/-- Before the first bit the invariant leaves one decoder for each stage and variant. -/
theorem FrameOk.eq_fresh {rx : Decoder} (h : FrameOk rx) (hst : rx.stage ≠ .inData) :
    rx = freshDecoder rx.stage rx.variant := by
  obtain ⟨st, v, n, snd, rcp, cmd, grp, prev⟩ := rx
  have hcount := h.count
  have hfields := h.fields
  cases st with
  | inData => exact absurd rfl hst
  | idle | syncSeen | latchSeen =>
    obtain rfl : n = 0 := hcount
    obtain ⟨rfl, rfl, rfl, rfl, rfl⟩ : snd = 0 ∧ rcp = 0 ∧ cmd = 0 ∧ grp = false ∧ prev = false := hfields
    rfl

section
variable {rx : Decoder}

theorem frameOk_iff_of_inData (hst : rx.stage = .inData) (hp : legalPair rx) :
    FrameOk rx ↔ countInRange rx ∧ fieldsInUse rx :=
  ⟨fun h => ⟨h.count, h.fields⟩, fun ⟨hcount, hfields⟩ => ⟨hp, by simp [hst], hcount, hfields⟩⟩

theorem frameOk_simple_iff (hst : rx.stage = .inData) (hv : rx.variant = .simple) :
    FrameOk rx ↔ (1 ≤ rx.bitcount.toNat ∧ rx.bitcount.toNat ≤ 24) ∧ rx.sender.toNat < 16 ∧ rx.command.toNat < 16 ∧
      rx.group = false := by
  rw [frameOk_iff_of_inData hst (by simp [legalPair, legalPairs, hst, hv])]
  simp only [countInRange, fieldsInUse, hst, hv]

theorem frameOk_advanced_iff (hst : rx.stage = .inData) (hv : rx.variant = .advanced) :
    FrameOk rx ↔ rx.bitcount.toNat ≤ 63 ∧ rx.command.toNat < 2 := by
  rw [frameOk_iff_of_inData hst (by simp [legalPair, legalPairs, hst, hv])]
  simp only [countInRange, fieldsInUse, hst, hv]

theorem frameOk_bbsb_iff (hst : rx.stage = .inData) (hv : rx.variant = .bbsb) :
    FrameOk rx ↔ (1 ≤ rx.bitcount.toNat ∧ rx.bitcount.toNat ≤ 24) ∧ rx.sender.toNat < 65536 ∧
      rx.recipient.toNat < 8 ∧ rx.group = false ∧ rx.prevbit = false := by
  rw [frameOk_iff_of_inData hst (by simp [legalPair, legalPairs, hst, hv])]
  simp only [countInRange, fieldsInUse, hst, hv]

end

/-! A bit stored keeps the fields within their frame (R116, R121, R123). -/

section
variable {n : Nat} {v : Bool} {rx : Decoder}

theorem toNat_ofNat_lt {w k m : Nat} (h : k < m) : (BitVec.ofNat w k).toNat < m := by
  rw [BitVec.toNat_ofNat]
  exact (Nat.mod_le _ _).trans_lt h

theorem simpleStores_fields (hsender : rx.sender.toNat < 16) (hcommand : rx.command.toNat < 16) :
    (simpleStores n rx).sender.toNat < 16 ∧ (simpleStores n rx).command.toNat < 16 := by
  have hprev := Bool.toNat_lt rx.prevbit
  unfold simpleStores
  split_ifs
  · exact ⟨hsender, hcommand⟩
  · exact ⟨toNat_ofNat_lt (by omega), hcommand⟩
  · exact ⟨hsender, hcommand⟩
  · exact ⟨hsender, toNat_ofNat_lt (by omega)⟩

theorem simpleStores_rest : (simpleStores n rx).stage = rx.stage ∧ (simpleStores n rx).variant = rx.variant ∧
    (simpleStores n rx).group = rx.group := by
  unfold simpleStores
  split_ifs <;> exact ⟨rfl, rfl, rfl⟩

theorem advStores_command (hcommand : rx.command.toNat < 2) : (advStores n rx).command.toNat < 2 := by
  unfold advStores
  split_ifs
  · exact hcommand
  · exact hcommand
  · exact hcommand
  · exact toNat_ofNat_lt (Bool.toNat_lt _)
  · exact hcommand

theorem advStores_rest : (advStores n rx).stage = rx.stage ∧ (advStores n rx).variant = rx.variant := by
  unfold advStores
  split_ifs <;> exact ⟨rfl, rfl⟩

theorem bbsbStores_fields (hsender : rx.sender.toNat < 65536) (hrecipient : rx.recipient.toNat < 8) :
    (bbsbStores n v rx).sender.toNat < 65536 ∧ (bbsbStores n v rx).recipient.toNat < 8 := by
  unfold bbsbStores
  split_ifs
  · exact ⟨toNat_ofNat_lt (Nat.mod_lt _ (by decide)), hrecipient⟩
  · exact ⟨hsender, hrecipient⟩
  · exact ⟨hsender, toNat_ofNat_lt (Nat.mod_lt _ (by decide))⟩
  · exact ⟨hsender, hrecipient⟩

theorem bbsbStores_rest : (bbsbStores n v rx).variant = rx.variant ∧ (bbsbStores n v rx).group = rx.group ∧
    (bbsbStores n v rx).prevbit = rx.prevbit := by
  unfold bbsbStores
  split_ifs <;> exact ⟨rfl, rfl, rfl⟩

theorem frameOk_simpleStores (hst : rx.stage = .inData) (hv : rx.variant = .simple) (hn : n < 24)
    (hsender : rx.sender.toNat < 16) (hcommand : rx.command.toNat < 16) (hgroup : rx.group = false) :
    FrameOk { simpleStores n rx with prevbit := v, bitcount := BitVec.ofNat 8 (n + 1) } := by
  obtain ⟨hst', hv', hgroup'⟩ := simpleStores_rest (n := n) (rx := rx)
  obtain ⟨hsender', hcommand'⟩ := simpleStores_fields (n := n) hsender hcommand
  have hcount : (BitVec.ofNat 8 (n + 1)).toNat = n + 1 := by rw [BitVec.toNat_ofNat]; omega
  refine (frameOk_simple_iff ?_ ?_).mpr ⟨?_, hsender', hcommand', hgroup'.trans hgroup⟩
  · exact hst'.trans hst
  · exact hv'.trans hv
  · dsimp only
    omega

theorem frameOk_advStores (hst : rx.stage = .inData) (hv : rx.variant = .advanced) (hn : n < 63)
    (hcommand : rx.command.toNat < 2) :
    FrameOk { advStores n rx with prevbit := v, bitcount := BitVec.ofNat 8 (n + 1) } := by
  obtain ⟨hst', hv'⟩ := advStores_rest (n := n) (rx := rx)
  have hcount : (BitVec.ofNat 8 (n + 1)).toNat = n + 1 := by rw [BitVec.toNat_ofNat]; omega
  refine (frameOk_advanced_iff ?_ ?_).mpr ⟨?_, advStores_command hcommand⟩
  · exact hst'.trans hst
  · exact hv'.trans hv
  · dsimp only
    omega

theorem frameOk_bbsbStores (hv : rx.variant = .bbsb) (hn : 1 ≤ n) (hn' : n < 25) (hsender : rx.sender.toNat < 65536)
    (hrecipient : rx.recipient.toNat < 8) (hgroup : rx.group = false) (hprev : rx.prevbit = false) :
    FrameOk { bbsbStores n v rx with stage := .inData, bitcount := BitVec.ofNat 8 n } := by
  obtain ⟨hv', hgroup', hprev'⟩ := bbsbStores_rest (n := n) (v := v) (rx := rx)
  obtain ⟨hsender', hrecipient'⟩ := bbsbStores_fields (n := n) (v := v) hsender hrecipient
  have hcount : (BitVec.ofNat 8 n).toNat = n := by rw [BitVec.toNat_ofNat]; omega
  refine (frameOk_bbsb_iff ?_ ?_).mpr ⟨?_, hsender', hrecipient', hgroup'.trans hgroup, hprev'.trans hprev⟩
  · rfl
  · exact hv'.trans hv
  · dsimp only
    omega

end

/-! The cases of the decoder (R110). -/

section
variable {s : State} (w : Micros) (l : Level)

theorem idleStep_frameOk (h : FrameOk s.rx) (hst : s.rx.stage = .idle) : FrameOk (idleStep w l s).rx := by
  have hrx := h.idle hst
  rw [idleStep_eq, hrx]
  split_ifs
  · exact frameOk_freshDecoder (st := .syncSeen) (v := .unknown) (by decide) (by decide)
  · exact frameOk_freshDecoder (st := .syncSeen) (v := .bbsb) (by decide) (by decide)
  · exact frameOk_idleDecoder

/-- A half-symbol of a Simple frame, the first one too. -/
theorem simpleHalf_frameOk (hst : s.rx.stage = .inData) (hv : s.rx.variant = .simple)
    (hn : s.rx.bitcount.toNat ≤ 24) (hsender : s.rx.sender.toNat < 16) (hcommand : s.rx.command.toNat < 16)
    (hgroup : s.rx.group = false) : FrameOk (simpleHalf w s).rx := by
  by_cases hw : ∃ v, simpleReads w s.rx.bitcount.toNat v
  · obtain ⟨v, hw⟩ := hw
    rw [simpleHalf_reads rfl hn hw]
    dsimp only
    split_ifs with hend
    · rw [simpleComplete_rx]
      exact frameOk_idleDecoder
    · exact frameOk_simpleStores hst hv (by omega) hsender hcommand hgroup
  · rw [simpleHalf_invalid rfl hn (not_exists.mp hw)]
    exact frameOk_idleDecoder

theorem syncStep_frameOk (h : FrameOk s.rx) (hst : s.rx.stage = .syncSeen) : FrameOk (syncStep w l s).rx := by
  have hrx := h.eq_fresh (by simp [hst])
  rw [syncStep_eq, hrx]
  split_ifs
  · exact frameOk_freshDecoder (st := .latchSeen) (v := .advanced) (by decide) (by decide)
  · exact simpleHalf_frameOk w rfl rfl (by decide : (0 : BitVec 8).toNat ≤ 24) (by decide : (0 : BitVec 26).toNat < 16)
      (by decide : (0 : BitVec 5).toNat < 16) rfl
  · exact frameOk_idleDecoder

theorem latchStep_frameOk (h : FrameOk s.rx) (hst : s.rx.stage = .latchSeen) (hv : s.rx.variant = .advanced) :
    FrameOk (latchStep w l s).rx := by
  have hrx := h.eq_fresh (by simp [hst])
  rw [latchStep_eq, hrx, hv]
  split_ifs
  · exact (frameOk_advanced_iff rfl rfl).mpr (by decide : (0 : BitVec 8).toNat ≤ 63 ∧ (0 : BitVec 5).toNat < 2)
  · exact frameOk_idleDecoder

theorem simpleStep_frameOk (h : FrameOk s.rx) (hst : s.rx.stage = .inData) (hv : s.rx.variant = .simple) :
    FrameOk (simpleStep w l s).rx := by
  cases l with
  | high =>
    obtain ⟨⟨-, hn⟩, hsender, hcommand, hgroup⟩ := (frameOk_simple_iff hst hv).mp h
    exact simpleHalf_frameOk w hst hv hn hsender hcommand hgroup
  | low =>
    rw [simpleStep_low_eq]
    split_ifs
    · exact h
    · exact frameOk_idleDecoder

theorem advStep_frameOk (h : FrameOk s.rx) (hst : s.rx.stage = .inData) (hv : s.rx.variant = .advanced) :
    FrameOk (advStep w s).rx := by
  obtain ⟨hn, hcommand⟩ := (frameOk_advanced_iff hst hv).mp h
  by_cases hw : ∃ v, advReads w v
  · obtain ⟨v, hw⟩ := hw
    by_cases hparity : s.rx.bitcount.toNat % 2 = 1 ∧ v = s.rx.prevbit
    · rw [advStep_parity rfl hn hw hparity.1 hparity.2]
      exact frameOk_idleDecoder
    · rw [advStep_reads rfl hn hw hparity]
      dsimp only
      split_ifs with hend
      · exact frameOk_idleDecoder
      · exact frameOk_advStores hst hv (by omega) hcommand
  · rw [advStep_invalid (not_exists.mp hw)]
    exact frameOk_idleDecoder

theorem bbsbStep_frameOk (h : FrameOk s.rx) (hst : s.rx.stage = .syncSeen ∨ s.rx.stage = .inData)
    (hv : s.rx.variant = .bbsb) : FrameOk (bbsbStep w s).rx := by
  have hfields : s.rx.bitcount.toNat ≤ 24 ∧ s.rx.sender.toNat < 65536 ∧ s.rx.recipient.toNat < 8 ∧
      s.rx.group = false ∧ s.rx.prevbit = false := by
    obtain hst | hst := hst
    · rw [h.eq_fresh (by simp [hst])]
      exact ⟨(by decide : (0 : BitVec 8).toNat ≤ 24), (by decide : (0 : BitVec 26).toNat < 65536),
        (by decide : (0 : BitVec 4).toNat < 8), rfl, rfl⟩
    · obtain ⟨⟨-, hn⟩, hrest⟩ := (frameOk_bbsb_iff hst hv).mp h
      exact ⟨hn, hrest⟩
  obtain ⟨hn, hsender, hrecipient, hgroup, hprev⟩ := hfields
  by_cases hw : ∃ v, bbsbReads w v
  · obtain ⟨v, hw⟩ := hw
    rw [bbsbStep_reads rfl (by omega) hw]
    dsimp only
    split_ifs with hend
    · rw [bbsbComplete_rx]
      exact frameOk_idleDecoder
    · exact frameOk_bbsbStores hv (by omega) (by omega) hsender hrecipient hgroup hprev
  · rw [bbsbStep_invalid (not_exists.mp hw)]
    exact frameOk_idleDecoder

end

theorem decodeEdge_frameOk {w : Micros} {l : Level} {s t : State} (hs : FrameOk s.rx)
    (h : decodeEdge w l s = .next t) : FrameOk t.rx := by
  obtain ⟨hst, -, rfl⟩ | ⟨hst, -, rfl⟩ | ⟨hst, hv, rfl⟩ | ⟨hst, hv, rfl⟩ | ⟨hst, hv, rfl⟩ | ⟨hst, hv, rfl⟩ :=
    decodeEdge_next h
  · exact idleStep_frameOk w l hs hst
  · exact syncStep_frameOk w l hs hst
  · exact latchStep_frameOk w l hs hst hv
  · exact simpleStep_frameOk w l hs hst hv
  · exact advStep_frameOk w hs hst hv
  · exact bbsbStep_frameOk w hs hst hv

end Sys2Proof.Machine
end

section
/-!
The invariant of `Safety.lean` (10_state.md sections 2 to 4 and 7). It holds of the block in three situations: not
armed, listening with a decoder as far as a frame can have come, or sending with the line at the phase the job is in.
Every operation leaves the block in one of them.
-/
namespace Sys2Proof.Machine

open Sys2Proof.Safety Sys2Proof.Claims

section
variable {s t : State}

theorem inv_frameOk (h : Inv s) : FrameOk s.rx := ⟨h.pair, h.idle, h.count, h.fields⟩

/-- The invariant speaks of the mode pair, the line, the decoder and the job. -/
theorem inv_congr (h : Inv s) (hmode : t.mode = s.mode) (hintsrc : t.intsrc = s.intsrc) (hline : t.line = s.line)
    (hrx : t.rx = s.rx) (htx : t.tx = s.tx) : Inv t := by
  obtain ⟨mode, intsrc, line, rx, tx⟩ := s
  obtain ⟨mode', intsrc', line', rx', tx'⟩ := t
  obtain rfl : mode' = mode := hmode
  obtain rfl : intsrc' = intsrc := hintsrc
  obtain rfl : line' = line := hline
  obtain rfl : rx' = rx := hrx
  obtain rfl : tx' = tx := htx
  exact ⟨h.source, h.pair, h.idle, h.decoderAtRest, h.noJobAtRest, h.lineAtRest, h.count, h.fields, h.job, h.place,
    h.phase⟩

/-- Listening, without a job. -/
theorem inv_of_listening (hmode : s.mode = .listening) (hintsrc : s.intsrc = .edgeCapture) (hline : s.line = .low)
    (htx : s.tx = noJob) (hrx : FrameOk s.rx) : Inv s where
  source := .inr (.inl ⟨hmode, hintsrc⟩)
  pair := hrx.pair
  idle := hrx.idle
  decoderAtRest := absurd hmode
  noJobAtRest := fun _ => htx
  lineAtRest := fun _ => hline
  count := hrx.count
  fields := hrx.fields
  job := fun h => by rw [hmode] at h; cases h
  place := fun h => by rw [hmode] at h; cases h
  phase := fun h => by rw [hmode] at h; cases h

/-- Sending, with the decoder at rest. -/
theorem inv_of_sending (hmode : s.mode = .sending) (hintsrc : s.intsrc = .periodicCompare) (hrx : s.rx = idleDecoder)
    (hjob : jobFields s.tx)
    (hplace : s.tx.pos.toNat < schedLength s.tx.variant ∧ s.tx.repeats.toNat < Config.pRepeat)
    (hphase : s.line = (phaseAt s.tx s.tx.pos.toNat).level ∧
      s.tx.pulse = BitVec.ofNat 32 (phaseAt s.tx s.tx.pos.toNat).duration) : Inv s where
  source := .inr (.inr ⟨hmode, hintsrc⟩)
  pair := hrx ▸ frameOk_idleDecoder.pair
  idle := fun _ => hrx
  decoderAtRest := fun _ => hrx
  noJobAtRest := absurd hmode
  lineAtRest := absurd hmode
  count := hrx ▸ frameOk_idleDecoder.count
  fields := hrx ▸ frameOk_idleDecoder.fields
  job := fun _ => hjob
  place := fun _ => hplace
  phase := fun _ => hphase

/-- An `EDGE` moves the decoder alone. -/
theorem inv_edge {w : Micros} {p : Polarity} (h : Inv s) (hexec : exec (.edge w p) s = .next t) : Inv t := by
  obtain ⟨-, rfl⟩ | ⟨hm, hd⟩ := execEdge_next hexec
  · exact inv_congr h rfl rfl rfl rfl rfl
  · obtain ⟨hmode, hintsrc, hline, htx, -⟩ := decodeEdge_rxOnly hd
    have hnot : s.mode ≠ .sending := by simp [hm]
    have hsource : s.intsrc = .edgeCapture := by rw [(modeSource_iff s).mp h.source, hm]; rfl
    exact inv_of_listening (hmode.trans hm) (hintsrc.trans hsource) (hline.trans (h.lineAtRest hnot))
      (htx.trans (h.noJobAtRest hnot)) (decodeEdge_frameOk (inv_frameOk h) hd)

/-- A phase of a job begins: its level and its duration go to the line and the pulse. -/
theorem inv_advanceTo {n : Nat} {rep : BitVec 16} (h : Inv s) (hm : s.mode = .sending)
    (hn : n < schedLength s.tx.variant) (hrep : rep.toNat < Config.pRepeat) : Inv (advanceTo n rep s) := by
  have hpos : (BitVec.ofNat 8 n).toNat = n := by
    have hle : schedLength s.tx.variant ≤ 68 := by cases s.tx.variant <;> decide
    rw [BitVec.toNat_ofNat, Nat.mod_eq_of_lt (by omega)]
  have hsource : s.intsrc = .periodicCompare := by rw [(modeSource_iff s).mp h.source, hm]; rfl
  have hrx : s.rx = idleDecoder := h.decoderAtRest (by simp [hm])
  rw [advanceTo_eq]
  refine inv_of_sending hm hsource hrx (h.job hm) ⟨?_, hrep⟩ ?_
  · show (BitVec.ofNat 8 n).toNat < schedLength s.tx.variant
    rwa [hpos]
  · dsimp only
    rw [hpos, phaseAt_place, phaseAt_place]
    exact ⟨rfl, rfl⟩

theorem inv_tick (h : Inv s) (hexec : exec .tick s = .next t) : Inv t := by
  obtain ⟨-, rfl⟩ | ⟨-, rfl⟩ | ⟨hm, -, hrep, rfl⟩ | ⟨hm, hlt, rfl⟩ := exec_tick_next hexec
  · exact inv_congr h rfl rfl rfl rfl rfl
  · exact inv_of_listening rfl rfl rfl rfl frameOk_idleDecoder
  · obtain ⟨hpos, hrepeats⟩ := h.place hm
    have hle := Config.pRepeat_le
    have hsucc : (s.tx.repeats + 1).toNat = s.tx.repeats.toNat + 1 := by
      rw [repeats_succ, BitVec.toNat_ofNat, Nat.mod_eq_of_lt (by omega)]
    exact inv_advanceTo h hm (by omega) (by omega)
  · obtain ⟨-, hrepeats⟩ := h.place hm
    rw [sched_length] at hlt
    exact inv_advanceTo h hm hlt hrepeats

/-- A `SEND*` begins the first phase of a job from every state. -/
theorem inv_beginSend {var : Variant} {snd : BitVec 26} {rcp : BitVec 4} {cmd : BitVec 5} {grp : Bool}
    (hvar : var ≠ .unknown) (hjob : ∀ pos repeats pulse, jobFields ⟨var, snd, rcp, cmd, grp, pos, repeats, pulse⟩) :
    Inv (beginSend var snd rcp cmd grp s) := by
  rw [beginSend_eq]
  refine inv_of_sending rfl rfl rfl (hjob _ _ _) ⟨schedLength_pos hvar, Config.pRepeat_pos⟩ ?_
  have hfirst := phaseAt_place ⟨var, snd, rcp, cmd, grp, 0, 0, s.tx.pulse⟩ 0 0 0
  exact ⟨congrArg Phase.level (hfirst _).symm, congrArg (fun ph => BitVec.ofNat 32 ph.duration) (hfirst _).symm⟩

end

theorem simpleCommand_cases : ∀ on, simpleCommand on = 14 ∨ simpleCommand on = 6 := by decide

theorem bbsbCommand_cases : ∀ on, bbsbCommand on = 0x14 ∨ bbsbCommand on = 0x15 := by decide

theorem toNat_setWidth_lt {n k : Nat} (x : BitVec n) : (x.setWidth k).toNat < 2 ^ n := by
  rw [BitVec.toNat_setWidth]
  exact (Nat.mod_le _ _).trans_lt x.isLt

/-- Every operation keeps the invariant. -/
theorem inv_exec {i : Instr} {s t : State} (h : Inv s) (hexec : exec i s = .next t) : Inv t := by
  cases i with
  | edge w p => exact inv_edge h hexec
  | tick => exact inv_tick h hexec
  | init => cases hexec; exact inv_of_listening rfl rfl rfl rfl frameOk_idleDecoder
  | regs | rega | regb => cases hexec; exact inv_congr h rfl rfl rfl rfl rfl
  | sends snd rcp on =>
    cases hexec
    exact inv_beginSend Variant.noConfusion fun _ _ _ => ⟨toNat_setWidth_lt snd, simpleCommand_cases on, rfl⟩
  | senda snd rcp cmd grp =>
    cases hexec
    exact inv_beginSend Variant.noConfusion fun _ _ _ => toNat_setWidth_lt (BitVec.ofBool cmd)
  | sendb snd rcp on grp =>
    cases hexec
    exact inv_beginSend Variant.noConfusion fun _ _ _ =>
      ⟨toNat_setWidth_lt snd, toNat_setWidth_lt (bbsbSendCode rcp grp), bbsbCommand_cases on, rfl⟩

theorem reset_inv (ops : List Word) : Inv { State.reset with ops := ops } where
  source := .inl ⟨rfl, rfl⟩
  pair := frameOk_idleDecoder.pair
  idle := fun _ => rfl
  decoderAtRest := fun _ => rfl
  noJobAtRest := fun _ => rfl
  lineAtRest := fun _ => rfl
  count := frameOk_idleDecoder.count
  fields := frameOk_idleDecoder.fields
  job := nofun
  place := nofun
  phase := nofun

end Sys2Proof.Machine

open Sys2Proof.Machine Sys2Proof.Safety

/-- Settles O19: the reset state is not armed, with everything at rest. -/
theorem resetMeetsInvariant : Obligations.ResetMeetsInvariant := reset_inv

/-- Settles O20: taking the word from the stream touches nothing of the invariant, and the operation keeps it. -/
theorem stepKeepsInvariant : Obligations.StepKeepsInvariant := by
  intro s t h hstep
  obtain ⟨word, rest, i, -, -, hexec⟩ := step_next hstep
  have hrest : Inv { s with ops := rest } := inv_congr h rfl rfl rfl rfl rfl
  exact inv_exec hrest hexec
end

section
/-!
No partial message (40_receive.md section 7): of all the cases of the decoder, only the last half-symbol or bit of a frame
puts out a message, and it is a message of the frame's variant.
-/
namespace Sys2Proof.Machine

open Sys2Proof.Safety Sys2Proof.Claims

section
variable {w : Micros} {s : State} {m : Message}

theorem simpleHalf_message (hn : s.rx.bitcount.toNat ≤ 24) (hmsg : (simpleHalf w s).out.msg = some m) :
    s.rx.bitcount = 24 ∧ (∃ v, simpleReads w 24 v) ∧ m.variant = .simple := by
  by_cases hw : ∃ v, simpleReads w s.rx.bitcount.toNat v
  · obtain ⟨v, hw⟩ := hw
    rw [simpleHalf_reads rfl hn hw] at hmsg
    dsimp only at hmsg
    split_ifs at hmsg with hend
    · rw [hend] at hw
      rw [simpleComplete_eq] at hmsg
      dsimp only at hmsg
      split_ifs at hmsg
      · cases hmsg
        exact ⟨BitVec.eq_of_toNat_eq hend, ⟨v, hw⟩, rfl⟩
    · cases hmsg
  · rw [simpleHalf_invalid rfl hn (not_exists.mp hw)] at hmsg
    cases hmsg

theorem advStep_message (hn : s.rx.bitcount.toNat ≤ 63) (hmsg : (advStep w s).out.msg = some m) :
    s.rx.bitcount = 63 ∧ (∃ v, advReads w v ∧ v ≠ s.rx.prevbit) ∧ m.variant = .advanced := by
  by_cases hw : ∃ v, advReads w v
  · obtain ⟨v, hw⟩ := hw
    by_cases hparity : s.rx.bitcount.toNat % 2 = 1 ∧ v = s.rx.prevbit
    · rw [advStep_parity rfl hn hw hparity.1 hparity.2] at hmsg
      cases hmsg
    · rw [advStep_reads rfl hn hw hparity] at hmsg
      dsimp only at hmsg
      split_ifs at hmsg with hend
      · cases hmsg
        exact ⟨BitVec.eq_of_toNat_eq hend, ⟨v, hw, fun hv => hparity ⟨by omega, hv⟩⟩, rfl⟩
      · cases hmsg
  · rw [advStep_invalid (not_exists.mp hw)] at hmsg
    cases hmsg

theorem bbsbStep_message (hn : s.rx.bitcount.toNat ≤ 24) (hmsg : (bbsbStep w s).out.msg = some m) :
    s.rx.bitcount = 24 ∧ (∃ v, bbsbReads w v) ∧ m.variant = .bbsb := by
  by_cases hw : ∃ v, bbsbReads w v
  · obtain ⟨v, hw⟩ := hw
    rw [bbsbStep_reads rfl (by omega) hw] at hmsg
    dsimp only at hmsg
    split_ifs at hmsg with hend
    · rw [bbsbComplete_eq] at hmsg
      dsimp only at hmsg
      split_ifs at hmsg
      · cases hmsg
        exact ⟨BitVec.eq_of_toNat_eq (Nat.succ.inj hend), ⟨v, hw⟩, rfl⟩
    · cases hmsg
  · rw [bbsbStep_invalid (not_exists.mp hw)] at hmsg
    cases hmsg

/-- No case before the first bit puts out a message. -/
theorem idleStep_no_message (l : Level) : (idleStep w l s).out.msg = none := by
  rw [idleStep_eq]
  split_ifs <;> rfl

theorem latchStep_no_message (l : Level) : (latchStep w l s).out.msg = none := by
  rw [latchStep_eq]
  split_ifs <;> rfl

theorem syncStep_no_message (l : Level) (hn : s.rx.bitcount = 0) : (syncStep w l s).out.msg = none := by
  rw [syncStep_eq]
  split_ifs
  · rfl
  · refine Option.eq_none_iff_forall_ne_some.mpr fun m hmsg => ?_
    obtain ⟨hend, -⟩ := simpleHalf_message (by rw [setRx_rx, hn]; decide) hmsg
    rw [setRx_rx, hn] at hend
    cases hend
  · rfl

end

end Sys2Proof.Machine

open Sys2Proof.Machine Sys2Proof.Safety

/-- Settles O38: only the last half-symbol or bit of a frame has a message, and the count of `SyncSeen` is 0. -/
theorem messageOnlyAtTerminalCount : Obligations.MessageOnlyAtTerminalCount := by
  intro i s t m hexec hmsg hinv
  obtain ⟨hnone, -⟩ | ⟨-, hi, -⟩ := exec_message hexec
  · rw [hnone] at hmsg; cases hmsg
  obtain ⟨w, p, rfl⟩ := isEdge_iff.mp hi
  obtain ⟨-, rfl⟩ | ⟨hm, hd⟩ := execEdge_next hexec
  · cases hmsg
  have hframe := inv_frameOk hinv
  obtain ⟨-, -, rfl⟩ | ⟨hst, -, rfl⟩ | ⟨-, -, rfl⟩ | ⟨hst, hv, rfl⟩ | ⟨hst, hv, rfl⟩ | ⟨hst | hst, hv, rfl⟩ :=
    decodeEdge_next hd
  · rw [idleStep_no_message] at hmsg; cases hmsg
  · have hcount : s.rx.bitcount = 0 := by rw [hframe.eq_fresh (by simp [hst])]; rfl
    rw [syncStep_no_message _ hcount] at hmsg; cases hmsg
  · rw [latchStep_no_message] at hmsg; cases hmsg
  · cases p with
    | rising => rw [phaseLevel, simpleStep_low_eq] at hmsg; split_ifs at hmsg
    | falling =>
      obtain ⟨⟨-, hn⟩, -⟩ := (frameOk_simple_iff hst hv).mp hframe
      obtain ⟨hend, ⟨v, hw⟩, hvar⟩ := simpleHalf_message hn hmsg
      exact ⟨w, .falling, v, rfl, .inl ⟨⟨hm, hst, hv⟩, hend, rfl, hw, hvar⟩⟩
  · obtain ⟨hn, -⟩ := (frameOk_advanced_iff hst hv).mp hframe
    obtain ⟨hend, ⟨v, hw, hne⟩, hvar⟩ := advStep_message hn hmsg
    exact ⟨w, p, v, rfl, .inr (.inl ⟨⟨hm, hst, hv⟩, hend, hw, hne, hvar⟩)⟩
  · have hcount : s.rx.bitcount = 0 := by rw [hframe.eq_fresh (by simp [hst])]; rfl
    obtain ⟨hend, -⟩ := bbsbStep_message (by rw [hcount]; decide) hmsg
    rw [hcount] at hend
    cases hend
  · obtain ⟨⟨-, hn⟩, -⟩ := (frameOk_bbsb_iff hst hv).mp hframe
    obtain ⟨hend, ⟨v, hw⟩, hvar⟩ := bbsbStep_message hn hmsg
    exact ⟨w, p, v, rfl, .inr (.inr ⟨⟨hm, hst, hv⟩, hend, hw, hvar⟩)⟩
end

section
/-!
A whole job (41_transmit.md section 4). Its `P_REPEAT` repeats of N phases are numbered through: place `m` is phase
`m % N` of repeat `m / N`. Each `TICK` goes on by one place, and the one at the last place ends the job.
-/
namespace Sys2Proof.Machine

open Sys2Proof.Safety Sys2Proof.Claims

/-- Going on by one place stays in the repeat or begins the next. -/
theorem succ_place {n : Nat} (m : Nat) (hn : 0 < n) :
    (m % n + 1 < n ∧ (m + 1) % n = m % n + 1 ∧ (m + 1) / n = m / n) ∨
    (m % n + 1 = n ∧ (m + 1) % n = 0 ∧ (m + 1) / n = m / n + 1) := by
  have hsplit : m + 1 = n * (m / n) + (m % n + 1) := by rw [← Nat.add_assoc, Nat.div_add_mod]
  obtain hlt | hend : m % n + 1 < n ∨ m % n + 1 = n :=
    Nat.lt_or_eq_of_le (Nat.mod_lt m hn)
  · refine .inl ⟨hlt, ?_, ?_⟩
    · calc (m + 1) % n = (n * (m / n) + (m % n + 1)) % n := congrArg (· % n) hsplit
        _ = m % n + 1 := by rw [Nat.mul_add_mod, Nat.mod_eq_of_lt hlt]
    · calc (m + 1) / n = (n * (m / n) + (m % n + 1)) / n := congrArg (· / n) hsplit
        _ = m / n := by rw [Nat.mul_add_div hn, Nat.div_eq_of_lt hlt, Nat.add_zero]
  · have hnext : m + 1 = n * (m / n + 1) := hsplit.trans (by rw [hend, Nat.mul_succ])
    refine .inr ⟨hend, ?_, ?_⟩
    · rw [hnext, Nat.mul_mod_right]
    · rw [hnext, Nat.mul_div_cancel_left _ hn]

/-- The phase at a place of the whole job. -/
def jobPhase (j : Job) (m : Nat) : Phase := phaseAt j (m % schedLength j.variant)

/-- The outputs of the step that begins the phase at a place. -/
def phaseOut (j : Job) (m : Nat) : Output := { interval := some (BitVec.ofNat 32 (jobPhase j m).duration) }

/-- The block at place `m` of the job `j`; its slots and its waiting operations are those of `s`. -/
def playing (j : Job) (m : Nat) (s : State) : State :=
  { s with
    mode := .sending, intsrc := .periodicCompare, line := (jobPhase j m).level, rx := idleDecoder
    tx :=
      { j with
        pos := BitVec.ofNat 8 (m % schedLength j.variant), repeats := BitVec.ofNat 16 (m / schedLength j.variant)
        pulse := BitVec.ofNat 32 (jobPhase j m).duration }
    out := phaseOut j m }

/-- A schedule is a function of the job's fields. -/
theorem sched_place (j : Job) (pos : BitVec 8) (rep : BitVec 16) (pulse : Micros) :
    sched { j with pos := pos, repeats := rep, pulse := pulse } = sched j :=
  List.map_congr_left fun p _ => phaseAt_place j p pos rep pulse

/-- `P_REPEAT` schedules in a row are the phases of the job place by place. -/
theorem flatten_replicate_sched (j : Job) (r : Nat) :
    (List.replicate r (sched j)).flatten = (List.range (r * schedLength j.variant)).map (jobPhase j) := by
  induction r with
  | zero => simp
  | succ r ih =>
    have hlast : sched j =
        (List.range (schedLength j.variant)).map fun p => jobPhase j (r * schedLength j.variant + p) :=
      List.map_congr_left fun p hp => by
        rw [jobPhase, Nat.mul_comm, Nat.mul_add_mod, Nat.mod_eq_of_lt (List.mem_range.mp hp)]
    rw [List.replicate_succ', List.flatten_append, ih, List.flatten_singleton, Nat.succ_mul, List.range_add,
      List.map_append, List.map_map]
    exact congrArg _ hlast

section
variable {j : Job} {s : State} {m : Nat}

theorem schedLength_le (v : Variant) : schedLength v ≤ 68 := by cases v <;> decide

/-- A job begins at place 0. -/
theorem beginSend_eq_playing (var : Variant) (snd : BitVec 26) (rcp : BitVec 4) (cmd : BitVec 5) (grp : Bool)
    (s : State) : beginSend var snd rcp cmd grp s = playing ⟨var, snd, rcp, cmd, grp, 0, 0, s.tx.pulse⟩ 0 s := by
  simp only [beginSend_eq, playing, phaseOut, jobPhase, Nat.zero_mod, Nat.zero_div]
  rfl

theorem advanceTo_playing (m' : Nat) :
    advanceTo (m' % schedLength j.variant) (BitVec.ofNat 16 (m' / schedLength j.variant)) (playing j m s) =
      playing j m' s := by
  simp only [advanceTo_eq, playing, phaseOut, jobPhase, phaseAt_place]

theorem toNat_playing_pos (hv : j.variant ≠ .unknown) :
    (playing j m s).tx.pos.toNat = m % schedLength j.variant := by
  have hlt := Nat.mod_lt m (schedLength_pos hv)
  have hle := schedLength_le j.variant
  exact (BitVec.toNat_ofNat _ _).trans (Nat.mod_eq_of_lt (by omega))

theorem toNat_playing_repeats (hm : m < Config.pRepeat * schedLength j.variant) :
    (playing j m s).tx.repeats.toNat = m / schedLength j.variant := by
  have hlt := Nat.div_lt_of_lt_mul (Nat.mul_comm _ _ ▸ hm)
  have hle := Config.pRepeat_le
  exact (BitVec.toNat_ofNat _ _).trans (Nat.mod_eq_of_lt (by omega))

theorem playing_sched_length : (sched (playing j m s).tx).length = schedLength j.variant := sched_length _

theorem exec_tick_playing (hv : j.variant ≠ .unknown) (hm : m + 1 < Config.pRepeat * schedLength j.variant) :
    exec .tick (playing j m s) = .next (playing j (m + 1) s) := by
  have hpos := toNat_playing_pos (m := m) (s := s) hv
  have hrep := toNat_playing_repeats (s := s) (Nat.lt_of_succ_lt hm)
  rw [← advanceTo_playing (m := m) (m + 1)]
  obtain ⟨hlt, hmod, hdiv⟩ | ⟨hend, hmod, hdiv⟩ := succ_place m (schedLength_pos hv)
  · rw [exec_tick_phase rfl (by rwa [hpos, playing_sched_length]), hpos, hmod, hdiv]
    rfl
  · have hmore : m / schedLength j.variant + 1 ≠ Config.pRepeat := by
      rw [← hdiv]
      exact (Nat.div_lt_of_lt_mul (Nat.mul_comm _ _ ▸ hm)).ne
    rw [exec_tick_repeat rfl (by rwa [hpos, playing_sched_length]) (by rwa [hrep]), repeats_succ, hrep, hmod, hdiv]

theorem exec_tick_playing_last (hv : j.variant ≠ .unknown) (hm : m + 1 = Config.pRepeat * schedLength j.variant) :
    exec .tick (playing j m s) = .next (endJob (playing j m s)) := by
  have hmod : (m + 1) % schedLength j.variant = 0 := by rw [hm, Nat.mul_mod_left]
  have hdiv : (m + 1) / schedLength j.variant = Config.pRepeat := by rw [hm, Nat.mul_div_cancel _ (schedLength_pos hv)]
  obtain ⟨-, hmod', -⟩ | ⟨hend, -, hdiv'⟩ := succ_place m (schedLength_pos hv)
  · rw [hmod] at hmod'; cases hmod'
  · refine exec_tick_last ⟨rfl, ?_, ?_⟩
    · rwa [toNat_playing_pos hv, playing_sched_length]
    · rw [toNat_playing_repeats (by omega), ← hdiv', hdiv]

/-- The `TICK`s before the last one. -/
theorem trace_ticks (hv : j.variant ≠ .unknown) {k : Nat} (hk : m + k < Config.pRepeat * schedLength j.variant) :
    trace (List.replicate k .tick) (playing j m s) =
      some ((List.range' (m + 1) k).map (phaseOut j), playing j (m + k) s) := by
  induction k generalizing m with
  | zero => rfl
  | succ k ih =>
    have hrest := ih (m := m + 1) (by omega)
    rw [show m + (k + 1) = m + 1 + k by omega]
    exact trace_cons (exec_tick_playing hv (by omega)) hrest

/-- A job from its first place to its end. -/
theorem trace_job (hv : j.variant ≠ .unknown) {k : Nat} (hk : Config.pRepeat * schedLength j.variant = k + 1) :
    trace (List.replicate (k + 1) .tick) (playing j 0 s) =
      some ((List.range' 1 k).map (phaseOut j) ++ [{ rearm := true }], endJob (playing j k s)) := by
  have hplay := trace_ticks (j := j) (s := s) (m := 0) hv (k := k) (by omega)
  rw [Nat.zero_add, Nat.zero_add] at hplay
  rw [List.replicate_succ']
  exact trace_append hplay (trace_cons (exec_tick_playing_last hv hk.symm) rfl)

/-- What a `SEND*` begins. -/
theorem exec_send_playing {i : Instr} {t : State} (hi : isSend i = true) (h : exec i s = .next t) :
    ∃ j : Job, j.variant ≠ .unknown ∧ t = playing j 0 s := by
  cases i with
  | edge | tick | init | regs | rega | regb => cases hi
  | sends | senda | sendb => cases h; exact ⟨_, Variant.noConfusion, beginSend_eq_playing _ _ _ _ _ s⟩

end

end Sys2Proof.Machine

open Sys2Proof.Machine

/-- Settles O50: the job is played place by place, and its outputs are those of the places after the first. -/
theorem jobTakesRepeatTimesLengthTicks : Obligations.JobTakesRepeatTimesLengthTicks := by
  intro i s t hi h
  obtain ⟨j, hv, rfl⟩ := exec_send_playing hi h
  obtain ⟨k, hk⟩ := Nat.exists_eq_succ_of_ne_zero
    (Nat.mul_pos Sys2Proof.Config.pRepeat_pos (schedLength_pos hv)).ne'
  have hsched : sched (playing j 0 s).tx = sched j := sched_place j _ _ _
  rw [hsched, sched_length, flatten_replicate_sched, hk]
  refine ⟨_, _, trace_job hv hk, ?_, ?_, rfl⟩
  · simp [List.range_eq_range', List.range'_succ, Function.comp_def, phaseOut, playing]
  · simp [Function.comp_def, phaseOut]
end

section
/-!
Frames in sequence on the receive side (41_transmit.md R163). A frame is received when its events take an idle decoder
through a track of registers, one event at a time, to the event that completes it and back to `Idle`; so repeats of it
are received one after the other.
-/
namespace Sys2Proof.Machine

open Sys2Proof.Safety Sys2Proof.Claims

theorem RxOnly.trans {s t u : State} (h : RxOnly s t) (h' : RxOnly t u) : RxOnly s u := by
  obtain ⟨hmode, hintsrc, hline, htx, hsimple, hadvanced, hbbsb, hops⟩ := h
  obtain ⟨hmode', hintsrc', hline', htx', hsimple', hadvanced', hbbsb', hops'⟩ := h'
  exact ⟨hmode'.trans hmode, hintsrc'.trans hintsrc, hline'.trans hline, htx'.trans htx, hsimple'.trans hsimple,
    hadvanced'.trans hadvanced, hbbsb'.trans hbbsb, hops'.trans hops⟩

theorem RxOnly.slot_eq {s t : State} (h : RxOnly s t) (v : Variant) : t.slot v = s.slot v := by
  obtain ⟨-, -, -, -, hsimple, hadvanced, hbbsb, -⟩ := h
  cases v with
  | unknown => rfl
  | simple => exact hsimple
  | advanced => exact hadvanced
  | bbsb => exact hbbsb

/-- The event of a phase takes a listening decoder from `rx` to `rx'`, with the outputs `out`. -/
def Event (ph : Phase) (rx rx' : Decoder) (out : State → Output) : Prop :=
  ∀ s : State, s.mode = .listening → s.rx = rx → exec (eventOf ph) s = .next { s with rx := rx', out := out s }

/-- The event is one of a frame in progress. -/
abbrev Progresses (ph : Phase) (rx rx' : Decoder) : Prop := Event ph rx rx' fun _ => { outcome := .progress }

/-- The event completes the frame with the message `m` (40_receive.md R130). -/
abbrev Completes (ph : Phase) (rx : Decoder) (m : Message) : Prop :=
  Event ph rx idleDecoder fun s => { outcome := .complete, msg := some m, dispatched := s.slot m.variant }

/-- One more event behind a trace that has moved the decoder alone. -/
theorem Event.trace_snoc {ph : Phase} {rx rx' : Decoder} {out : State → Output} (h : Event ph rx rx' out)
    {phs : List Phase} {outs : List Output} {s u : State} (hm : s.mode = .listening)
    (htrace : trace (phs.map eventOf) s = some (outs, u)) (honly : RxOnly s u) (hrx : u.rx = rx) :
    trace ((phs ++ [ph]).map eventOf) s = some (outs ++ [out u], { u with rx := rx', out := out u }) := by
  rw [List.map_append]
  exact trace_append htrace (trace_cons (h u (honly.1.trans hm) hrx) rfl)

/-- A track of registers, event by event. -/
theorem trace_track {track : Nat → Decoder} {ph : Nat → Phase} {n : Nat}
    (h : ∀ i < n, Progresses (ph i) (track i) (track (i + 1))) {s : State} (hm : s.mode = .listening)
    (hrx : s.rx = track 0) :
    ∃ u, trace (((List.range n).map ph).map eventOf) s = some (List.replicate n { outcome := .progress }, u) ∧
      RxOnly s u ∧ u.rx = track n := by
  induction n with
  | zero => exact ⟨s, rfl, rxOnly_refl s, hrx⟩
  | succ n ih =>
    obtain ⟨u, htrace, honly, hurx⟩ := ih fun i hi => h i (hi.trans n.lt_succ_self)
    have hlast := (h n n.lt_succ_self).trace_snoc hm htrace honly hurx
    rw [List.range_succ, List.map_append, List.replicate_succ']
    exact ⟨_, hlast, honly, rfl⟩

/-- The phases of a frame take an idle listening block back to itself, with one message `m` and the labels `labels`. -/
def FrameReceived (phs : List Phase) (labels : List Label) (m : Message) : Prop :=
  ∀ s : State, s.mode = .listening → s.rx = idleDecoder →
    ∃ outs u, trace (phs.map eventOf) s = some (outs, u) ∧ RxOnly s u ∧ u.rx = idleDecoder ∧
      receives outs 1 labels m (s.slot m.variant)

/-- A track from `Idle` to an event that completes the frame. -/
theorem frameReceived_of_track {track : Nat → Decoder} {ph : Nat → Phase} {n : Nat} {m : Message}
    (hidle : track 0 = idleDecoder) (h : ∀ i < n, Progresses (ph i) (track i) (track (i + 1)))
    (hlast : Completes (ph n) (track n) m) :
    FrameReceived ((List.range (n + 1)).map ph) (List.replicate n .progress ++ [.complete]) m := by
  intro s hm hrx
  obtain ⟨u, htrace, honly, hurx⟩ := trace_track h hm (hrx.trans hidle.symm)
  rw [List.range_succ, List.map_append]
  refine ⟨_, _, hlast.trace_snoc hm htrace honly hurx, honly, rfl, by simp, by simp, ?_⟩
  rw [honly.slot_eq]
  cases s.slot m.variant <;> simp

/-- A phase that an idle decoder ignores, behind a frame. -/
theorem FrameReceived.append_ignored {phs : List Phase} {labels : List Label} {m : Message} {ph : Phase}
    (h : FrameReceived phs labels m) (hph : Event ph idleDecoder idleDecoder fun _ => { outcome := .ignored }) :
    FrameReceived (phs ++ [ph]) (labels ++ [.ignored]) m := by
  intro s hm hrx
  obtain ⟨outs, u, htrace, honly, hurx, hlabels, hmsgs, hcalls⟩ := h s hm hrx
  refine ⟨_, _, hph.trace_snoc hm htrace honly hurx, honly, rfl, ?_, ?_, ?_⟩
  · simpa using hlabels
  · simpa using hmsgs
  · simpa using hcalls

theorem receives_append {outs outs' : List Output} {k k' : Nat} {labels : List Label} {m : Message} {handler : Bool}
    (h : receives outs k labels m handler) (h' : receives outs' k' labels m handler) :
    receives (outs ++ outs') (k + k') labels m handler := by
  obtain ⟨hlabels, hmsgs, hcalls⟩ := h
  obtain ⟨hlabels', hmsgs', hcalls'⟩ := h'
  refine ⟨?_, ?_, ?_⟩
  · rw [List.map_append, hlabels, hlabels', List.replicate_add, List.flatten_append]
  · rw [List.filterMap_append, hmsgs, hmsgs', List.replicate_add]
  · rw [List.filter_append, List.length_append, hcalls, hcalls']
    cases handler <;> rfl

/-- Repeats of a frame are received one after the other. -/
theorem FrameReceived.repeats {phs : List Phase} {labels : List Label} {m : Message} (h : FrameReceived phs labels m)
    (k : Nat) {s : State} (hm : s.mode = .listening) (hrx : s.rx = idleDecoder) :
    ∃ outs u, trace ((List.replicate k phs).flatten.map eventOf) s = some (outs, u) ∧ u.mode = .listening ∧
      u.rx = idleDecoder ∧ receives outs k labels m (s.slot m.variant) := by
  induction k generalizing s with
  | zero => exact ⟨[], s, rfl, hm, hrx, rfl, rfl, by simp⟩
  | succ k ih =>
    obtain ⟨outs, u, htrace, honly, hurx, hrec⟩ := h s hm hrx
    obtain ⟨outs', u', htrace', hm', hrx', hrec'⟩ := ih (honly.1.trans hm) hurx
    rw [honly.slot_eq] at hrec'
    refine ⟨outs ++ outs', u', ?_, hm', hrx', ?_⟩
    · rw [List.replicate_succ, List.flatten_cons, List.map_append]
      exact trace_append htrace htrace'
    · rw [Nat.add_comm]
      exact receives_append hrec hrec'

theorem sched_eq_map {j : Job} {n : Nat} {ph : Nat → Phase} (hn : schedLength j.variant = n)
    (hph : ∀ p, phaseAt j p = ph p) : sched j = (List.range n).map ph := by
  rw [sched, hn]
  exact List.map_congr_left fun p _ => hph p

/-! The events before the first bit. -/

theorem preamble_progresses {d : Nat} (hd : within (BitVec.ofNat 32 d) 9480 11500) :
    Progresses ⟨.low, d⟩ idleDecoder (freshDecoder .syncSeen .unknown) := by
  intro s hm hrx
  obtain ⟨hevent, -⟩ := preambleSelectsVariant s (BitVec.ofNat 32 d) .rising ⟨hm, by rw [hrx]; rfl, by rw [hrx]; rfl⟩
  refine (hevent rfl hd).trans ?_
  rw [hrx]
  rfl

theorem preamble_progresses_bbsb {d : Nat} (hd : within (BitVec.ofNat 32 d) 8500 9479) :
    Progresses ⟨.low, d⟩ idleDecoder (freshDecoder .syncSeen .bbsb) := by
  intro s hm hrx
  obtain ⟨-, hevent, -⟩ :=
    preambleSelectsVariant s (BitVec.ofNat 32 d) .rising ⟨hm, by rw [hrx]; rfl, by rw [hrx]; rfl⟩
  refine (hevent rfl hd).trans ?_
  rw [hrx]
  rfl

/-- A High phase at `Idle` is no preamble. -/
theorem high_ignored (d : Nat) : Event ⟨.high, d⟩ idleDecoder idleDecoder fun _ => { outcome := .ignored } := by
  intro s hm hrx
  obtain ⟨-, -, hevent⟩ :=
    preambleSelectsVariant s (BitVec.ofNat 32 d) .falling ⟨hm, by rw [hrx]; rfl, by rw [hrx]; rfl⟩
  refine (hevent (.inl rfl)).trans ?_
  rw [← hrx]

end Sys2Proof.Machine
end

section
/-!
A field received bit by bit (00_scope.md R16). One that is sent from its top bit down holds, after `c` of its `n` bits,
the field shifted right by `n - c`; one that is sent from its bottom bit up holds it shifted left by `n - c`.
-/
namespace Sys2Proof.Machine

open Sys2Proof.Safety Sys2Proof.Claims

theorem setWidth_setWidth_self {n m : Nat} (h : n ≤ m) (x : BitVec n) : (x.setWidth m).setWidth n = x := by
  rw [BitVec.setWidth_setWidth_of_le _ h, BitVec.setWidth_eq]

theorem shlIn_ushiftRight {n c : Nat} (x : BitVec n) (hc : c < n) :
    shlIn (x >>> (n - c)) (x.getLsbD (n - 1 - c)) = x >>> (n - (c + 1)) := by
  have hbit : (x.getLsbD (n - 1 - c)).toNat = x.toNat / 2 ^ (n - 1 - c) % 2 := Nat.toNat_testBit _ _
  have hfit : x.toNat / 2 ^ (n - 1 - c) < 2 ^ n := (Nat.div_le_self _ _).trans_lt x.isLt
  have hpow : 2 ^ (n - c) = 2 ^ (n - 1 - c) * 2 := by rw [← pow_succ]; congr 1; omega
  apply BitVec.eq_of_toNat_eq
  rw [toNat_shlIn, BitVec.toNat_ushiftRight, BitVec.toNat_ushiftRight, Nat.shiftRight_eq_div_pow,
    Nat.shiftRight_eq_div_pow, hbit, hpow, ← Nat.div_div_eq_div_mul, Nat.div_add_mod, Nat.mod_eq_of_lt hfit,
    Nat.sub_sub, Nat.add_comm]

theorem shrIn_shiftLeft : ∀ x : BitVec 4, ∀ c < 4, shrIn (x <<< (4 - c)) (x.getLsbD c) = x <<< (4 - (c + 1)) := by
  decide

/-- The same in a wider register, whose low four bits are the field. -/
theorem shrIn_shiftLeft_setWidth {n c : Nat} (x : BitVec n) (hn : 4 ≤ n) (hc : c < 4) :
    (shrIn (((x.setWidth 4 <<< (4 - c)).setWidth n).setWidth 4) (x.getLsbD c)).setWidth n =
      (x.setWidth 4 <<< (4 - (c + 1))).setWidth n := by
  have hbit : x.getLsbD c = (x.setWidth 4).getLsbD c := by
    rw [BitVec.getLsbD_setWidth, decide_eq_true hc, Bool.true_and]
  rw [setWidth_setWidth_self hn, hbit, shrIn_shiftLeft _ c hc]

/-- `shlIn_ushiftRight` in a wider register. -/
theorem shlIn_ushiftRight_setWidth {n w c : Nat} (x : BitVec n) (hw : w ≤ n) (hc : c < w) :
    (shlIn (((x.setWidth w >>> (w - c)).setWidth n).setWidth w) (x.getLsbD (w - 1 - c))).setWidth n =
      (x.setWidth w >>> (w - (c + 1))).setWidth n := by
  have hbit : x.getLsbD (w - 1 - c) = (x.setWidth w).getLsbD (w - 1 - c) := by
    rw [BitVec.getLsbD_setWidth, decide_eq_true (by omega), Bool.true_and]
  rw [setWidth_setWidth_self hw, hbit, shlIn_ushiftRight _ hc]

end Sys2Proof.Machine
end

section
/-!
The Simple round trip (41_transmit.md R156, section 4; 40_receive.md R116 to R118): the registers after every slot of a
frame, in closed form, and the events that lead from one to the next.
-/
namespace Sys2Proof.Machine

open Sys2Proof.Safety Sys2Proof.Claims

/-- The value of a slot: the first of each pair carries the bit. -/
def slotValue (j : Job) (s : Nat) : Bool := decide (s % 2 = 0 ∧ s < 24) && simpleBit j (s / 2)

/-- The registers after the first `n` slots of a Simple frame. -/
def simpleRx (j : Job) (n : Nat) : Decoder where
  stage := .inData
  variant := .simple
  bitcount := BitVec.ofNat 8 n
  sender := (j.sender.setWidth 4 <<< (4 - n / 2)).setWidth 26
  recipient := j.recipient <<< (4 - (n / 2 - 4))
  command := (j.command.setWidth 4 <<< (4 - (n / 2 - 8))).setWidth 5
  group := false
  prevbit := slotValue j (n - 1)

/-- The registers before each phase of a Simple frame; a gap changes nothing. -/
def simpleTrack (j : Job) : Nat → Decoder
  | 0 => idleDecoder
  | 1 => freshDecoder .syncSeen .unknown
  | p + 2 => simpleRx j (p / 2 + 1)

theorem simpleHigh_eq (j : Job) (s : Nat) : simpleHigh j s = if slotValue j s then 1125 else 375 := by
  simp only [simpleHigh, slotValue, Bool.and_eq_true, decide_eq_true_eq, and_assoc]
  rfl

theorem slot_reads (j : Job) (s : Nat) : simpleReads (BitVec.ofNat 32 (simpleHigh j s)) s (slotValue j s) := by
  rw [simpleHigh_eq]
  cases hv : slotValue j s with
  | false => exact .inl ⟨rfl, by decide⟩
  | true =>
    simp only [slotValue, Bool.and_eq_true, decide_eq_true_eq] at hv
    exact .inr ⟨rfl, hv.1.1, by decide⟩

theorem gap_within (j : Job) (s : Nat) :
    within (BitVec.ofNat 32 (1500 - simpleHigh j s)) 280 430 ∨
      within (BitVec.ofNat 32 (1500 - simpleHigh j s)) 975 1150 := by
  rw [simpleHigh_eq]
  cases slotValue j s with
  | false => exact .inr (by decide)
  | true => exact .inl (by decide)

theorem slotValue_even {j : Job} {c : Nat} (hc : c < 12) : slotValue j (2 * c) = simpleBit j c := by
  have hslot : 2 * c % 2 = 0 ∧ 2 * c < 24 := by omega
  rw [slotValue, decide_eq_true hslot, Bool.true_and, Nat.mul_div_cancel_left c Nat.two_pos]

theorem simpleStores_simpleRx {j : Job} {n : Nat} (hn : 1 ≤ n) (hn' : n < 24) :
    { simpleStores n (simpleRx j n) with prevbit := slotValue j n, bitcount := BitVec.ofNat 8 (n + 1) } =
      simpleRx j (n + 1) := by
  obtain ⟨c, rfl | rfl⟩ : ∃ c, n = 2 * c ∨ n = 2 * c + 1 := ⟨n / 2, by omega⟩
  · have hstores : simpleStores (2 * c) (simpleRx j (2 * c)) = simpleRx j (2 * c) := if_pos (by omega)
    have hpairs : (2 * c + 1) / 2 = 2 * c / 2 := by omega
    rw [hstores]
    simp only [simpleRx, hpairs, Nat.add_sub_cancel]
  · have hpairs : (2 * c + 1) / 2 = c ∧ (2 * c + 1 + 1) / 2 = c + 1 := by omega
    have hprev : (simpleRx j (2 * c + 1)).prevbit = simpleBit j c := slotValue_even (by omega)
    obtain hc | hc | hc : c < 4 ∨ (4 ≤ c ∧ c < 8) ∨ (8 ≤ c ∧ c < 12) := by omega
    · have hfields : 4 - (c + 1 - 4) = 4 - (c - 4) ∧ 4 - (c + 1 - 8) = 4 - (c - 8) := by omega
      rw [simpleStores, if_neg (by omega), if_pos (by omega), ← setWidth_shrIn_setWidth, hprev, simpleBit_sender hc]
      simp only [simpleRx, hpairs, hfields, Nat.add_sub_cancel, shrIn_shiftLeft_setWidth j.sender (by decide) hc]
    · have hfields : 4 - c = 4 - (c + 1) ∧ 4 - (c + 1 - 4) = 4 - (c - 4 + 1) ∧ 4 - (c + 1 - 8) = 4 - (c - 8) := by omega
      obtain ⟨hsender, hrecipient, hcommand⟩ := hfields
      rw [simpleStores, if_neg (by omega), if_neg (by omega), if_pos (by omega), ← shrIn_eq_ofNat, hprev,
        simpleBit_recipient hc.1 hc.2]
      simp only [simpleRx, hpairs, hsender, hrecipient, hcommand, Nat.add_sub_cancel,
        shrIn_shiftLeft j.recipient (c - 4) (by omega)]
    · have hfields : 4 - c = 4 - (c + 1) ∧ 4 - (c + 1 - 4) = 4 - (c - 4) ∧ 4 - (c + 1 - 8) = 4 - (c - 8 + 1) := by omega
      obtain ⟨hsender, hrecipient, hcommand⟩ := hfields
      rw [simpleStores, if_neg (by omega), if_neg (by omega), if_neg (by omega), ← setWidth_shrIn_setWidth, hprev,
        simpleBit_command hc.1]
      simp only [simpleRx, hpairs, hsender, hrecipient, hcommand, Nat.add_sub_cancel,
        shrIn_shiftLeft_setWidth j.command (c := c - 8) (by decide) (by omega)]

/-- The first slot is read as half-symbol 0 and is no latch. -/
theorem simple_first_slot (j : Job) :
    Progresses ⟨.high, simpleHigh j 0⟩ (freshDecoder .syncSeen .unknown) (simpleRx j 1) := by
  intro s hm hrx
  obtain ⟨-, hevent, -⟩ := pulseAfterPreambleSelectsVariant s (BitVec.ofNat 32 (simpleHigh j 0)) .falling
    ⟨hm, by rw [hrx]; rfl, by rw [hrx]; rfl⟩ (by rw [hrx]; rfl)
  have hlatch : ¬within (BitVec.ofNat 32 (simpleHigh j 0)) 200 350 := by
    rw [simpleHigh_eq]
    cases slotValue j 0 <;> decide
  refine (hevent rfl hlatch _ (slot_reads j 0)).trans ?_
  rw [hrx]
  simp [simpleRx, freshDecoder, idleDecoder]

theorem simple_gap (j : Job) (k n : Nat) : Progresses ⟨.low, 1500 - simpleHigh j k⟩ (simpleRx j n) (simpleRx j n) := by
  intro s hm hrx
  obtain ⟨hevent, -⟩ := simpleGapChecked s (BitVec.ofNat 32 (1500 - simpleHigh j k))
    ⟨hm, by rw [hrx]; rfl, by rw [hrx]; rfl⟩
  refine (hevent (gap_within j k)).trans ?_
  rw [← hrx]

theorem toNat_simpleRx_bitcount (j : Job) {n : Nat} (hn : n ≤ 24) : (simpleRx j n).bitcount.toNat = n := by
  rw [simpleRx, BitVec.toNat_ofNat]
  omega

theorem simple_slot (j : Job) {n : Nat} (hn : 1 ≤ n) (hn' : n < 24) :
    Progresses ⟨.high, simpleHigh j n⟩ (simpleRx j n) (simpleRx j (n + 1)) := by
  intro s hm hrx
  obtain ⟨-, hevent, -⟩ := simpleHalfSymbol s (BitVec.ofNat 32 (simpleHigh j n)) n
    ⟨hm, by rw [hrx]; rfl, by rw [hrx]; rfl⟩ (by rw [hrx, toNat_simpleRx_bitcount j hn'.le]) hn'.le
  refine (hevent _ (slot_reads j n) hn').trans ?_
  rw [hrx, simpleStores_simpleRx hn hn']

theorem simple_last_slot (j : Job) (snd rcp : BitVec 4) (on : Bool) (hsnd : j.sender = snd.setWidth 26)
    (hrcp : j.recipient = rcp) (hon : j.command = simpleCommand on) :
    Completes ⟨.high, simpleHigh j 24⟩ (simpleRx j 24) (.simple snd rcp on) := by
  intro s hm hrx
  obtain ⟨-, -, hevent⟩ := simpleHalfSymbol s (BitVec.ofNat 32 (simpleHigh j 24)) 24
    ⟨hm, by rw [hrx]; rfl, by rw [hrx]; rfl⟩ (by rw [hrx, toNat_simpleRx_bitcount j le_rfl]) le_rfl
  refine (hevent _ (slot_reads j 24) rfl).trans ?_
  have hsender : BitVec.ofNat 4 s.rx.sender.toNat = snd := by
    
    simp only [hrx, simpleRx, hsnd, BitVec.ofNat_toNat, Nat.reduceDiv, Nat.reduceSub, BitVec.shiftLeft_zero,
      setWidth_setWidth_self (by decide : 4 ≤ 26)]
  have hrecipient : s.rx.recipient = rcp := by rw [hrx, ← hrcp]; simp [simpleRx]
  have hcommand : s.rx.command = simpleCommand on := by
    rw [hrx, simpleRx, hon]
    cases on <;> rfl
  rw [hsender, hrecipient, hcommand]
  cases on <;> rfl

theorem simpleTrack_slot (j : Job) {n : Nat} (hn : 1 ≤ n) : simpleTrack j (2 * n + 1) = simpleRx j n := by
  obtain ⟨m, rfl⟩ := Nat.exists_eq_add_of_le' hn
  have hcount : (2 * m + 1) / 2 + 1 = m + 1 := by omega
  exact congrArg (simpleRx j) hcount

theorem simpleTrack_gap (j : Job) (n : Nat) : simpleTrack j (2 * n + 2) = simpleRx j (n + 1) :=
  congrArg (simpleRx j) (by omega)

theorem simpleTrack_progresses (j : Job) {p : Nat} (hp : p < 49) :
    Progresses (simplePhase j p) (simpleTrack j p) (simpleTrack j (p + 1)) := by
  obtain ⟨n, rfl | rfl⟩ : ∃ n, p = 2 * n ∨ p = 2 * n + 1 := ⟨p / 2, by omega⟩
  · cases n with
    | zero => exact preamble_progresses (by decide)
    | succ n =>
      rw [Nat.mul_succ, simpleTrack_gap, ← Nat.mul_succ, simpleTrack_slot j n.succ_pos, Nat.mul_succ, simplePhase_gap]
      exact simple_gap j n (n + 1)
  · rw [simplePhase_slot, simpleTrack_gap]
    cases n with
    | zero => exact simple_first_slot j
    | succ n =>
      rw [simpleTrack_slot j n.succ_pos]
      exact simple_slot j n.succ_pos (by omega)

theorem simple_frameReceived (j : Job) (snd rcp : BitVec 4) (on : Bool) (hv : j.variant = .simple)
    (hsnd : j.sender = snd.setWidth 26) (hrcp : j.recipient = rcp) (hon : j.command = simpleCommand on) :
    FrameReceived (sched j) (List.replicate 49 .progress ++ [.complete]) (.simple snd rcp on) := by
  rw [sched_eq_map (n := 49 + 1) (ph := simplePhase j) (by rw [hv]; rfl) fun p => by rw [phaseAt, hv]]
  refine frameReceived_of_track (track := simpleTrack j) rfl (fun p hp => simpleTrack_progresses j hp) ?_
  rw [simplePhase_slot 24]
  exact simple_last_slot j snd rcp on hsnd hrcp hon

end Sys2Proof.Machine

open Sys2Proof.Machine

/-- Settles O51: the job's schedule is a frame that is received, and so are its repeats. -/
theorem simpleRoundTrip : Obligations.SimpleRoundTrip := by
  intro snd rcp on s t r k h hm hrx
  cases h
  exact (simple_frameReceived _ snd rcp on rfl rfl rfl rfl).repeats k hm hrx
end

section
/-!
The Advanced round trip (41_transmit.md R157, section 4; 40_receive.md R114, R115, R119 to R122): the registers after
every half-symbol of a frame. The second half of each pair is the inverse of the first, so parity holds, and the stop
pulse comes after the message.
-/
namespace Sys2Proof.Machine

open Sys2Proof.Safety Sys2Proof.Claims

/-- The registers after the first `n` half-symbols of an Advanced frame. -/
def advRx (j : Job) (n : Nat) : Decoder where
  stage := .inData
  variant := .advanced
  bitcount := BitVec.ofNat 8 n
  sender := j.sender >>> (26 - n / 2)
  recipient := j.recipient >>> (4 - (n / 2 - 28))
  command := if 28 ≤ n / 2 then bitIn 5 (j.command.getLsbD 0) else 0
  group := decide (27 ≤ n / 2) && j.group
  prevbit := decide (1 ≤ n) && advHalf j (n - 1)

/-- The registers before each phase of an Advanced frame. -/
def advTrack (j : Job) : Nat → Decoder
  | 0 => idleDecoder
  | 1 => freshDecoder .syncSeen .unknown
  | 2 => freshDecoder .latchSeen .advanced
  | n + 3 => advRx j n

theorem half_reads (b : Bool) : advReads (BitVec.ofNat 32 (if b then 1180 else 275)) b := by
  cases b with
  | false => exact .inl ⟨rfl, by decide⟩
  | true => exact .inr ⟨rfl, by decide⟩

theorem advRx_prevbit_odd {j : Job} {c : Nat} : (advRx j (2 * c + 1)).prevbit = advBit j c := by
  show (decide (1 ≤ 2 * c + 1) && advHalf j (2 * c)) = advBit j c
  rw [decide_eq_true (by omega), Bool.true_and, advHalf_even]

/-- The second half of a pair is the inverse of the first, so parity holds. -/
theorem advHalf_parity {j : Job} {n : Nat} : ¬(n % 2 = 1 ∧ advHalf j n = (advRx j n).prevbit) := by
  rintro ⟨hodd, hsame⟩
  obtain ⟨c, rfl⟩ : ∃ c, n = 2 * c + 1 := ⟨n / 2, by omega⟩
  rw [advHalf_odd, advRx_prevbit_odd] at hsame
  exact Bool.not_ne_self _ hsame

theorem advStores_advRx {j : Job} {n : Nat} (hn : n < 64) :
    { advStores n (advRx j n) with prevbit := advHalf j n, bitcount := BitVec.ofNat 8 (n + 1) } =
      advRx j (n + 1) := by
  have hnext : (advRx j (n + 1)).prevbit = advHalf j n := Bool.true_and _
  obtain ⟨c, rfl | rfl⟩ : ∃ c, n = 2 * c ∨ n = 2 * c + 1 := ⟨n / 2, by omega⟩
  · have hstores : advStores (2 * c) (advRx j (2 * c)) = advRx j (2 * c) := if_pos (by omega)
    have hpairs : (2 * c + 1) / 2 = 2 * c / 2 := by omega
    rw [hstores, ← hnext]
    simp only [advRx, hpairs]
  · have hpairs : (2 * c + 1) / 2 = c ∧ (2 * c + 1 + 1) / 2 = c + 1 := by omega
    rw [← hnext, advStores, if_neg (by omega), advRx_prevbit_odd, ← shlIn_eq_ofNat, ← shlIn_eq_ofNat, ← bitIn_eq_ofNat]
    obtain hc | rfl | rfl | hc : c < 26 ∨ c = 26 ∨ c = 27 ∨ (28 ≤ c ∧ c < 32) := by omega
    · rw [if_pos (by omega), advBit_sender hc]
      have hrecipient : 4 - (c - 28) = 4 - (c + 1 - 28) := by omega
      have hlate : ¬28 ≤ c ∧ ¬28 ≤ c + 1 ∧ ¬27 ≤ c ∧ ¬27 ≤ c + 1 := by omega
      simp only [advRx, hpairs, hrecipient, hlate, shlIn_ushiftRight j.sender hc]
    · rfl
    · rfl
    · have hbit : advBit j c = j.recipient.getLsbD (4 - 1 - (c - 28)) := by
        rw [advBit_recipient hc.1]
        congr 1
        omega
      rw [if_neg (by omega), if_neg (by omega), if_neg (by omega), hbit]
      have hfields : 26 - c = 26 - (c + 1) ∧ 4 - (c + 1 - 28) = 4 - (c - 28 + 1) := by omega
      have hlate : 28 ≤ c ∧ 28 ≤ c + 1 ∧ 27 ≤ c ∧ 27 ≤ c + 1 := by omega
      obtain ⟨hsender, hrecipient⟩ := hfields
      simp only [advRx, hpairs, hsender, hrecipient, hlate, shlIn_ushiftRight j.recipient (c := c - 28) (by omega)]

theorem adv_latch_high :
    Progresses ⟨.high, 235⟩ (freshDecoder .syncSeen .unknown) (freshDecoder .latchSeen .advanced) := by
  intro s hm hrx
  obtain ⟨hevent, -⟩ := pulseAfterPreambleSelectsVariant s 235 .falling
    ⟨hm, by rw [hrx]; rfl, by rw [hrx]; rfl⟩ (by rw [hrx]; rfl)
  refine (hevent rfl (by decide)).trans ?_
  rw [hrx]
  rfl

theorem adv_latch_low (j : Job) : Progresses ⟨.low, 2650⟩ (freshDecoder .latchSeen .advanced) (advRx j 0) := by
  intro s hm hrx
  obtain ⟨hevent, -⟩ := latchLowPulse s 2650 .rising ⟨hm, by rw [hrx]; rfl, by rw [hrx]; rfl⟩
  refine (hevent rfl (by decide)).trans ?_
  have hsender : j.sender >>> 26 = 0 := BitVec.ushiftRight_eq_zero le_rfl
  have hrecipient : j.recipient >>> 4 = 0 := BitVec.ushiftRight_eq_zero le_rfl
  simp only [hrx, advRx, Nat.zero_div, Nat.zero_sub, Nat.sub_zero, hsender, hrecipient]
  rfl

theorem toNat_advRx_bitcount (j : Job) {n : Nat} (hn : n < 64) : (advRx j n).bitcount.toNat = n := by
  rw [advRx, BitVec.toNat_ofNat]
  omega

theorem adv_half (j : Job) {n : Nat} (hn : n < 63) : Progresses (advPhase j (n + 3)) (advRx j n) (advRx j (n + 1)) := by
  intro s hm hrx
  rw [advPhase_half (by omega)]
  obtain ⟨-, -, hevent, -⟩ := advancedHalfSymbol s
    (BitVec.ofNat 32 (if advHalf j n then 1180 else 275)) (edgeEnding (if n % 2 = 0 then .high else .low)) n
    ⟨hm, by rw [hrx]; rfl, by rw [hrx]; rfl⟩ (by rw [hrx, toNat_advRx_bitcount j (by omega)]) hn.le
  refine (hevent _ (half_reads _) (by rw [hrx]; exact advHalf_parity) hn).trans ?_
  rw [hrx, advStores_advRx (by omega)]

theorem adv_last_half (j : Job) (cmd : Bool) (hcmd : j.command = bitIn 5 cmd) :
    Completes (advPhase j 66) (advRx j 63) (.advanced j.sender j.recipient cmd j.group) := by
  intro s hm hrx
  rw [advPhase_half (i := 63) (by omega)]
  obtain ⟨-, -, -, hevent⟩ := advancedHalfSymbol s
    (BitVec.ofNat 32 (if advHalf j 63 then 1180 else 275)) (edgeEnding (if 63 % 2 = 0 then .high else .low)) 63
    ⟨hm, by rw [hrx]; rfl, by rw [hrx]; rfl⟩ (by rw [hrx, toNat_advRx_bitcount j (by omega)]) le_rfl
  refine (hevent _ (half_reads _) (by rw [hrx]; exact fun h => advHalf_parity ⟨rfl, h⟩) rfl).trans ?_
  have hsender : s.rx.sender = j.sender := by rw [hrx]; exact BitVec.ushiftRight_zero _
  have hrecipient : BitVec.ofNat 4 (2 * s.rx.recipient.toNat + s.rx.prevbit.toNat) = j.recipient := by
    rw [← shlIn_eq_ofNat, hrx, advRx_prevbit_odd (c := 31), advBit_recipient (by omega)]
    exact (shlIn_ushiftRight j.recipient (c := 3) (by omega)).trans (BitVec.ushiftRight_zero _)
  have hcommand : decide (s.rx.command.toNat % 2 = 1) = cmd := by
    rw [hrx]
    show decide ((bitIn 5 (j.command.getLsbD 0)).toNat % 2 = 1) = cmd
    rw [hcmd]
    cases cmd <;> rfl
  have hgroup : s.rx.group = j.group := by rw [hrx]; exact Bool.true_and _
  rw [hsender, hrecipient, hcommand, hgroup]
  rfl

theorem advTrack_progresses (j : Job) : ∀ p < 66, Progresses (advPhase j p) (advTrack j p) (advTrack j (p + 1))
  | 0, _ => preamble_progresses (by decide)
  | 1, _ => adv_latch_high
  | 2, _ => adv_latch_low j
  | n + 3, hp => adv_half j (by omega)

theorem adv_frameReceived (j : Job) (cmd : Bool) (hv : j.variant = .advanced) (hcmd : j.command = bitIn 5 cmd) :
    FrameReceived (sched j) (List.replicate 66 .progress ++ [.complete, .ignored])
      (.advanced j.sender j.recipient cmd j.group) := by
  rw [sched_eq_map (n := 67 + 1) (ph := advPhase j) (by rw [hv]; rfl) fun p => by rw [phaseAt, hv], List.range_succ,
    List.map_append]
  exact (frameReceived_of_track (track := advTrack j) (n := 66) rfl (advTrack_progresses j)
    (adv_last_half j cmd hcmd)).append_ignored (high_ignored 235)

end Sys2Proof.Machine

open Sys2Proof.Machine

/-- Settles O52: the frame ends before the stop pulse, which is no preamble. -/
theorem advancedRoundTrip : Obligations.AdvancedRoundTrip := by
  intro snd rcp cmd grp s t r k h hm hrx
  cases h
  exact (adv_frameReceived _ cmd rfl rfl).repeats k hm hrx
end

section
/-!
The BBSB2011 round trip (41_transmit.md R154, R158, section 4; 40_receive.md R123 to R125): the registers after every
bit of a frame, and the remap of the code that is sent.
-/
namespace Sys2Proof.Machine

open Sys2Proof.Safety Sys2Proof.Claims

/-- The registers after the first `k` bits of a BBSB2011 frame. -/
def bbsbRx (j : Job) (k : Nat) : Decoder where
  stage := if k = 0 then .syncSeen else .inData
  variant := .bbsb
  bitcount := BitVec.ofNat 8 k
  sender := (j.sender.setWidth 16 >>> (16 - k)).setWidth 26
  recipient := (j.recipient.setWidth 3 >>> (3 - (k - 21))).setWidth 4
  command := j.command >>> (5 - (k - 16))
  group := false
  prevbit := false

/-- The registers before each phase of a BBSB2011 frame. -/
def bbsbTrack (j : Job) : Nat → Decoder
  | 0 => idleDecoder
  | k + 1 => bbsbRx j k

theorem bbsb_reads (b : Bool) : bbsbReads (BitVec.ofNat 32 (if b then 900 else 300)) b := by
  cases b with
  | false => exact .inl ⟨rfl, by decide⟩
  | true => exact .inr ⟨rfl, by decide⟩

theorem bbsbRx_zero (j : Job) : bbsbRx j 0 = freshDecoder .syncSeen .bbsb := by
  have hsender : j.sender.setWidth 16 >>> 16 = 0 := BitVec.ushiftRight_eq_zero le_rfl
  have hrecipient : j.recipient.setWidth 3 >>> 3 = 0 := BitVec.ushiftRight_eq_zero le_rfl
  have hcommand : j.command >>> 5 = 0 := BitVec.ushiftRight_eq_zero le_rfl
  simp only [bbsbRx, Nat.zero_sub, Nat.sub_zero, hsender, hrecipient, hcommand]
  rfl

theorem bbsbStores_bbsbRx {j : Job} {k : Nat} (hk : k < 24) :
    { bbsbStores (k + 1) (bbsbBit j k) (bbsbRx j k) with stage := .inData, bitcount := BitVec.ofNat 8 (k + 1) } =
      bbsbRx j (k + 1) := by
  obtain hsnd | hcmd | hrcp : k < 16 ∨ (16 ≤ k ∧ k < 21) ∨ (21 ≤ k ∧ k < 24) := by omega
  · have hcommand : 5 - (k - 16) = 5 - (k + 1 - 16) := by omega
    have hrecipient : 3 - (k - 21) = 3 - (k + 1 - 21) := by omega
    have hbit : bbsbBit j k = j.sender.getLsbD (16 - 1 - k) := bbsbBit_sender hsnd
    rw [← bbsbStore_eq_stores, bbsbStore, if_pos (by omega), hbit]
    simp only [bbsbRx, hcommand, hrecipient, shlIn_ushiftRight_setWidth j.sender (by decide : 16 ≤ 26) hsnd]
    rfl
  · have hsender : 16 - k = 16 - (k + 1) := by omega
    have hcommand : 5 - (k + 1 - 16) = 5 - (k - 16 + 1) := by omega
    have hrecipient : 3 - (k - 21) = 3 - (k + 1 - 21) := by omega
    have hbit : bbsbBit j k = j.command.getLsbD (5 - 1 - (k - 16)) := by
      rw [bbsbBit_command hcmd.1 hcmd.2]
      congr 1
      omega
    rw [← bbsbStore_eq_stores, bbsbStore, if_neg (by omega), if_pos (by omega), hbit]
    simp only [bbsbRx, hsender, hcommand, hrecipient, shlIn_ushiftRight j.command (c := k - 16) (by omega)]
    rfl
  · have hsender : 16 - k = 16 - (k + 1) := by omega
    have hcommand : 5 - (k - 16) = 5 - (k + 1 - 16) := by omega
    have hrecipient : 3 - (k + 1 - 21) = 3 - (k - 21 + 1) := by omega
    have hbit : bbsbBit j k = j.recipient.getLsbD (3 - 1 - (k - 21)) := by
      rw [bbsbBit_recipient hrcp.1 hrcp.2]
      congr 1
      omega
    rw [← bbsbStore_eq_stores, bbsbStore, if_neg (by omega), if_neg (by omega), if_pos (by omega), hbit]
    simp only [bbsbRx, hsender, hcommand, hrecipient,
      shlIn_ushiftRight_setWidth j.recipient (c := k - 21) (by decide : 3 ≤ 4) (by omega)]
    rfl

theorem inCase_bbsbRx {j : Job} {k : Nat} {s : State} (hm : s.mode = .listening) (hrx : s.rx = bbsbRx j k) :
    inCase s .inData .bbsb ∨ inCase s .syncSeen .bbsb := by
  rw [inCase, inCase, hrx]
  cases k with
  | zero => exact .inr ⟨hm, rfl, rfl⟩
  | succ k => exact .inl ⟨hm, rfl, rfl⟩

theorem toNat_bbsbRx_bitcount (j : Job) {k : Nat} (hk : k < 25) : (bbsbRx j k).bitcount.toNat = k := by
  rw [bbsbRx, BitVec.toNat_ofNat]
  omega

theorem bbsb_bit (j : Job) {k : Nat} (hk : k < 24) :
    Progresses (bbsbPhase j (k + 1)) (bbsbRx j k) (bbsbRx j (k + 1)) := by
  intro s hm hrx
  have hcount : s.rx.bitcount.toNat + 1 = k + 1 := by rw [hrx, toNat_bbsbRx_bitcount j (by omega)]
  have hphase : bbsbPhase j (k + 1) = _ := (congrArg _ (Nat.add_comm k 1)).trans bbsbPhase_bit
  rw [hphase, eventOf, exec_edge_bbsb (inCase_bbsbRx hm hrx),
    bbsbStep_reads hcount (by omega) (bbsb_reads (bbsbBit j k)), if_neg (by omega), hrx, bbsbStores_bbsbRx hk]
  rfl

theorem bbsb_last_bit (j : Job) (snd : BitVec 16) (code : BitVec 3) (on : Bool) (hsnd : j.sender = snd.setWidth 26)
    (hcode : j.recipient = code.setWidth 4) (hon : j.command = bbsbCommand on) :
    Completes (bbsbPhase j 25) (bbsbRx j 24)
      (.bbsb2011 snd (BitVec.ofNat 3 (remapFormula code.toNat)) on (decide (remapFormula code.toNat = 1))) := by
  intro s hm hrx
  have hcount : s.rx.bitcount.toNat + 1 = 25 := by rw [hrx, toNat_bbsbRx_bitcount j (by omega)]
  rw [bbsbPhase_bit (k := 24), eventOf, exec_edge_bbsb (inCase_bbsbRx hm hrx),
    bbsbStep_reads hcount le_rfl (bbsb_reads (bbsbBit j 24)), if_pos rfl, bbsbComplete_eq, hrx]
  have hsender : BitVec.ofNat 16 (bbsbRx j 24).sender.toNat = snd := by
    simp only [bbsbRx, hsnd, BitVec.ofNat_toNat, Nat.reduceSub, BitVec.ushiftRight_zero,
      setWidth_setWidth_self (by decide : 16 ≤ 26)]
  have hrecipient : (bbsbRx j 24).recipient.toNat % 8 = code.toNat := by
    have hlt := code.isLt
    simp only [bbsbRx, hcode, Nat.reduceSub, BitVec.ushiftRight_zero, setWidth_setWidth_self (by decide : 3 ≤ 4),
      BitVec.toNat_setWidth]
    omega
  have hcommand : (bbsbRx j 24).command = bbsbCommand on := by
    rw [← hon]
    exact BitVec.ushiftRight_zero _
  have hstores : bbsbStores 25 (bbsbBit j 24) (bbsbRx j 24) = bbsbRx j 24 := rfl
  simp only [hstores, setRx_rx, hsender, hrecipient, hcommand]
  cases on <;> rfl

theorem bbsbTrack_progresses (j : Job) : ∀ p < 25, Progresses (bbsbPhase j p) (bbsbTrack j p) (bbsbTrack j (p + 1))
  | 0, _ => by
    show Progresses ⟨.low, 9000⟩ idleDecoder (bbsbRx j 0)
    rw [bbsbRx_zero]
    exact preamble_progresses_bbsb (by decide)
  | k + 1, hp => bbsb_bit j (Nat.lt_of_succ_lt_succ hp)

theorem bbsb_frameReceived (j : Job) (snd : BitVec 16) (code : BitVec 3) (on : Bool) (hv : j.variant = .bbsb)
    (hsnd : j.sender = snd.setWidth 26) (hcode : j.recipient = code.setWidth 4) (hon : j.command = bbsbCommand on) :
    FrameReceived (sched j) (List.replicate 25 .progress ++ [.complete])
      (.bbsb2011 snd (BitVec.ofNat 3 (remapFormula code.toNat)) on (decide (remapFormula code.toNat = 1))) := by
  rw [sched_eq_map (n := 25 + 1) (ph := bbsbPhase j) (by rw [hv]; rfl) fun p => by rw [phaseAt, hv]]
  exact frameReceived_of_track (track := bbsbTrack j) rfl (bbsbTrack_progresses j)
    (bbsb_last_bit j snd code on hsnd hcode hon)

end Sys2Proof.Machine

open Sys2Proof.Machine

/-- Settles O53: the code that is sent is the one that is remapped. -/
theorem bbsbRoundTrip : Obligations.BbsbRoundTrip := by
  intro snd rcp on grp s t r k h hm hrx
  cases h
  rw [← toNat_bbsbSendCode]
  exact (bbsb_frameReceived _ snd (bbsbSendCode rcp grp) on rfl rfl rfl rfl).repeats k hm hrx
end
